-- ==== Sys2Proof/Word.lean ====
section
/-! DEFINITION. The word types of the BitStream block (spec/00_scope.md R7, R9): all values are unsigned. -/

namespace Sys2Proof

/-- The channel unit and the accumulator's width: an 8-bit byte (R7). -/
abbrev Byte := BitVec 8

/-- A command word, one 16-bit word on `cmd_word` (R7, R54). -/
abbrev Word := BitVec 16

/-- The response data, 64 bits (R7, R60). -/
abbrev Data := BitVec 64

end Sys2Proof
end

