-- ==== Sys2Proof/Syntax.lean ====
section
/-! DEFINITION. The commands of the block: one constructor per row of spec/opcode_table.json (30_encoding.md R56).
WRITE_BITSTRING has no command word (R63); it is a host-side sequence, in Machine/HostSide.lean. -/

namespace Sys2Proof

/-- One legal command. An illegal word decodes to none of these (R57, R58). -/
inductive Instr where
  /-- CONSTRUCT in Read mode, with the padding count of the stream to be read (R65). -/
  | constructR (pad : BitVec 3)
  /-- CONSTRUCT in Write mode (R65). -/
  | constructW
  /-- WRITE_BIT with an 8-bit character code, legal or not as a bit symbol (R68). -/
  | writeBit (sym : Byte)
  /-- READ_BIT (R74). -/
  | readBit
  /-- READ_BYTE (R76). -/
  | readByte
  /-- READ_NBITS with a bit count; the field holds 0 to 127, of which 0 to 64 can succeed (R55, R78). -/
  | readNbits (n : Nat)
  /-- CLOSE (R80). -/
  | close
  deriving DecidableEq, Repr

/-- The mnemonic of a command, as spec/opcode_table.json spells it. -/
def Instr.mnemonic : Instr → String
  | .constructR _ => "CONSTRUCT"
  | .constructW => "CONSTRUCT"
  | .writeBit _ => "WRITE_BIT"
  | .readBit => "READ_BIT"
  | .readByte => "READ_BYTE"
  | .readNbits _ => "READ_NBITS"
  | .close => "CLOSE"

end Sys2Proof
end

