-- ==== Sys2Proof/WellFormed.lean ====
section
/-! DEFINITION. Which commands have a command word. The operands PAD and SYM have exactly the width of their fields, so
every value of theirs has one; N is a count and must fit its seven-bit field (30_encoding.md R55). -/

namespace Sys2Proof

/-- The command fits its encoding: N is 0 to 127 (R55). -/
def Instr.wf : Instr → Bool
  | .constructR _ => true
  | .constructW => true
  | .writeBit _ => true
  | .readBit => true
  | .readByte => true
  | .readNbits n => decide (n < 128)
  | .close => true

end Sys2Proof
end

