-- ==== Sys2Proof/Decode.lean ====
section
/-! DEFINITION. Decoding a command word, total on every 16-bit word (30_encoding.md R58), the encoder written from the
same tables (R54 to R56), and the opcode map itself as data. A command word arrives whole on the port `cmd_word[15:0]`
(R50), so no byte order enters. -/

namespace Sys2Proof

/-- `w[lo+len-1 : lo]` as a number (R9). -/
def field (w : Word) (lo len : Nat) : Nat := (w.extractLsb' lo len).toNat

/-- R58's `decode`; `none` is ILLEGAL (R57). -/
def decode (w : Word) : Option Instr :=
  match field w 12 4 with
  | 0x1 =>
    if field w 0 8 ≠ 0 then none
    else if w.getLsbD 11 then
      if field w 8 3 ≠ 0 then none else some .constructW
    else some (.constructR (w.extractLsb' 8 3))
  | 0x2 => if field w 8 4 ≠ 0 then none else some (.writeBit (w.extractLsb' 0 8))
  | 0x3 => if field w 0 12 ≠ 0 then none else some .readBit
  | 0x4 => if field w 0 12 ≠ 0 then none else some .readByte
  | 0x5 => if field w 7 5 ≠ 0 then none else some (.readNbits (field w 0 7))
  | 0x6 => if field w 0 12 ≠ 0 then none else some .close
  | _ => none

/-- The command word of a well-formed command (R54, R55; the `word` column of R62). -/
def encode : Instr → Word
  | .constructR pad => 0x1000#16 ||| (pad.setWidth 16 <<< 8)
  | .constructW => 0x1800#16
  | .writeBit sym => 0x2000#16 ||| sym.setWidth 16
  | .readBit => 0x3000#16
  | .readByte => 0x4000#16
  | .readNbits n => 0x5000#16 ||| BitVec.ofNat 16 n
  | .close => 0x6000#16

/-- One row of the opcode map: a word selects it when its bits under `mask` are `pattern` (R56). -/
structure OpcodeRow where
  mnemonic : String
  pattern : Word
  mask : Word
  deriving DecidableEq, Repr

/-- The word selects the row (R56). -/
def OpcodeRow.selects (r : OpcodeRow) (w : Word) : Bool := w &&& r.mask == r.pattern

/-- The opcode map of R56, which is spec/opcode_table.json's seven rows. -/
def opcodeTable : List OpcodeRow :=
  [ ⟨"CONSTRUCT", 0x1000, 0xF8FF⟩,
    ⟨"CONSTRUCT", 0x1800, 0xFFFF⟩,
    ⟨"WRITE_BIT", 0x2000, 0xFF00⟩,
    ⟨"READ_BIT", 0x3000, 0xFFFF⟩,
    ⟨"READ_BYTE", 0x4000, 0xFFFF⟩,
    ⟨"READ_NBITS", 0x5000, 0xFF80⟩,
    ⟨"CLOSE", 0x6000, 0xFFFF⟩ ]

/-- The low `nbits` bits of `w` as a command word, every bit above them 0. -/
def tableWord (nbits w : Nat) : Word := BitVec.ofNat 16 (w % 2 ^ nbits)

/-- The command the decoder reads from a word numbered as spec/opcode_table.json numbers it: the table's bit 0 is
`cmd_word[0]`, and every row is one 16-bit word (R54, R61). -/
def decodeTableWord (nbits w : Nat) : Option Instr := decode (tableWord nbits w)

end Sys2Proof
end

