-- ==== Sys2Proof/Config.lean ====
section
/-! DEFINITION. The fixed parameters of the block that are not widths of a type (00_scope.md R7), and the free values: what
ACC, BOFF and LAST hold after a channel failure, which the spec leaves unspecified (10_state.md R30, 60_exceptions.md
R87, 93_implementation_defined.md U1). The open parameter `latency` is read by no rule (R8, R114) and has no place here. -/

namespace Sys2Proof

/-- NMAX, the largest multi-bit read (R7). -/
def Config.nMax : Nat := 64

/-- The value ACC takes at the `k`-th channel failure: any byte (R30; log entry 4). -/
opaque Config.freeAcc : Nat → Byte

/-- The value BOFF takes at the `k`-th channel failure: anything within 0..8 (R30, R87; log entry 4). -/
opaque Config.freeBoff : Nat → Fin 9

/-- The value LAST takes at the `k`-th channel failure: either (R30; log entry 4). -/
opaque Config.freeLast : Nat → Bool

end Sys2Proof
end

