-- ==== Sys2Proof/Machine/State.lean ====
section
/-! DEFINITION. The state of the machine as plain data: the six architectural registers and the response holding register
(10_state.md R15, R26), the two channels (20_memory.md R33), the pins and the pending inputs of the environment (30_encoding.md
R50 to R53, 70_reset_and_hazards.md R106), and the model's own records. INVENTORY.md lists every field with its rule. -/

namespace Sys2Proof.Machine

open Sys2Proof

/-- The lifecycle register LC (R16). Its encoding 0b11 is never held, so it has no constructor. -/
inductive LC where
  | idle
  | opened
  | failed
  deriving DecidableEq, Repr

/-- The register MODE (R17). -/
inductive Mode where
  | read
  | write
  deriving DecidableEq, Repr

/-- The response statuses (R59). The codes 0xA to 0xF are never produced, so they have no constructor. -/
inductive Status where
  | ok
  | eod
  | errMode
  | errSymbol
  | errNbits
  | errNotOpen
  | errAlreadyOpen
  | errIllegal
  | errIo
  | errFailed
  deriving DecidableEq, Repr

/-- One response: `rsp_status` and `rsp_data` (R52). -/
structure Response where
  status : Status
  data : Data
  deriving DecidableEq, Repr

/-- The channel at the rising edge at which `rst` is first sampled 1, with an access in flight (R101, U15; log entry 6). -/
inductive RstEdge where
  /-- It has not answered: a pop pulse is not given, an offer is withdrawn. -/
  | waiting
  /-- It answers at this very edge, with a failure or not; `moved` says whether the transfer took place all the same: a
  handshake that completes at this edge may or may not have moved its byte. -/
  | answered (failing moved : Bool)
  deriving DecidableEq, Repr

/-- How the environment answers one channel access (R34, R35, R41). -/
inductive ChanAnswer where
  /-- The access succeeds. -/
  | ok
  /-- The access fails; `moved` says whether its byte moved all the same (R41; log entry 3). -/
  | err (moved : Bool)
  /-- `rst` is asserted while the access is in flight, with the channel so at that edge (R101, U15; log entry 6). -/
  | rst (edge : RstEdge)
  /-- The channel never answers (R41, U9; log entry 5). -/
  | never
  deriving DecidableEq, Repr

/-- One access the block made to a channel (R38 to R40). -/
inductive Access where
  | pop
  | probe
  | push (b : Byte)
  deriving DecidableEq, Repr

/-- What the host may do at its ports (R106; log entry 8). -/
inductive HostEvent where
  /-- Raises `cmd_valid` with this word and holds both until the transfer (R50). -/
  | raise (w : Word)
  /-- An edge with `rsp_ready` = 1 (R52). -/
  | take
  /-- A rising edge of `clk` with `rst` = 1 (R100). -/
  | assertRst
  /-- `rst` falls (R100). -/
  | releaseRst
  /-- Connects a read channel that holds these bytes: the launch input `chanIn` of the next Read session (R8, R33, R104). -/
  | connect (bytes : List Byte)
  deriving DecidableEq, Repr

/-- Why the machine stops. -/
inductive Fault where
  /-- Raised by every channel access the environment never answers: the block waits and has no step (R41, U9). SAFE: the
  model stops where the block may wait for ever. -/
  | channelSilent
  /-- Raised by WRITE_BIT when BOFF is already 8: the count would leave 0..8, which no state reached from reset does
  (R19, U8). SAFE: the model stops. -/
  | boffRange
  deriving DecidableEq, Repr

/-- Why a step has no meaning. -/
inductive Refusal where
  /-- Raised by an arm of exec whose command has no meaning yet. SAFE: the model stops. No arm of this model raises it. -/
  | notModelled (mnemonic : String)
  /-- Raised by a host that presents another word while an earlier one is still waiting for its transfer, against R50
  and R106: such a host has no move (U10's treatment). SAFE: the model stops. -/
  | wordNotHeld
  /-- Raised by a host that replaces the read channel during a Read session, against R37: such a host has no move (U10).
  SAFE: the model stops. -/
  | channelSwapped
  deriving DecidableEq, Repr

/-- The machine's state. -/
structure State where
  /-- LC, the lifecycle register (R16). -/
  lc : LC
  /-- MODE (R17). -/
  mode : Mode
  /-- ACC, the accumulator (R18). -/
  acc : Byte
  /-- BOFF, a count in 0..8 held in 4 bits; 9 to 15 are never held (R19). -/
  boff : Fin 9
  /-- PAD (R20). -/
  pad : BitVec 3
  /-- LAST (R21). -/
  last : Bool
  /-- The response holding register; `none` is empty (R26, R52). -/
  rsp : Option Response
  /-- IN, the bytes of the read channel not yet consumed (R33). -/
  chIn : List Byte
  /-- OUT, the bytes appended to the write channel (R33). -/
  chOut : List Byte
  /-- The input pin `rst` (R100). -/
  rst : Bool
  /-- The command port's inputs: `some w` is `cmd_valid` = 1 with `cmd_word` = w (R50). -/
  cmd : Option Word
  /-- What the host does next, oldest first (R106; log entry 8). -/
  host : List HostEvent
  /-- How the environment answers the next channel accesses, oldest first; an access past the end of the list succeeds
  (R8's `ioOutcome`, R41; log entry 2). -/
  chan : List ChanAnswer
  /-- The model's own: every channel access made so far, in order (log entry 14). -/
  accesses : List Access
  /-- The model's own: what `status_o` showed while each of those accesses was in flight, in the same order (R24; log entries 1
  and 14). -/
  shown : List (BitVec 24)
  /-- The model's own: the responses the host has taken, in order, R117's observation (log entry 14). -/
  taken : List Response
  /-- The model's own: how many free values have been drawn (log entry 4). -/
  draws : Nat
  deriving DecidableEq, Repr

/-- The machine right after reset (R28, R100): registers at their reset values, the response register empty. The channels
list nothing and the environment has nothing pending (log entries 2, 9 and 13). -/
def State.reset : State where
  lc := .idle
  mode := .read
  acc := 0
  boff := 0
  pad := 0
  last := false
  rsp := none
  chIn := []
  chOut := []
  rst := false
  cmd := none
  host := []
  chan := []
  accesses := []
  shown := []
  taken := []
  draws := 0

end Sys2Proof.Machine
end

