-- ==== Sys2Proof/Machine/Operands.lean ====
section
/-! DEFINITION. The operand forms of the commands (30_encoding.md R55) and the count arithmetic on BOFF (10_state.md R19). -/

namespace Sys2Proof.Machine

open Sys2Proof

/-- SYM is one of the two bit characters, 0x30 for '0' and 0x31 for '1' (R55). -/
def symLegal (sym : Byte) : Bool := sym == 0x30#8 || sym == 0x31#8

/-- The bit a legal SYM stands for (R68). -/
def symBit (sym : Byte) : Bool := sym == 0x31#8

/-- The character code of a bit (R55). -/
def bitSym (b : Bool) : Byte := if b then 0x31#8 else 0x30#8

/-- N is a legal bit count (R55, R78). -/
def nbitsLegal (n : Nat) : Bool := decide (n ≤ Config.nMax)

/-- `zext_8` of a bit (R9). -/
def bitByte (b : Bool) : Byte := (BitVec.ofBool b).setWidth 8

/-- `zext_64` of a bit (R60). -/
def bitData (b : Bool) : Data := (BitVec.ofBool b).setWidth 64

/-- `zext_64` of a byte (R60). -/
def byteData (b : Byte) : Data := b.setWidth 64

/-- `zext_64` of a padding count (R60). -/
def countData (p : Nat) : Data := BitVec.ofNat 64 p

/-- BOFF + 1, where it stays within 0..8 (R19). -/
def boffUp (k : Fin 9) : Option (Fin 9) := if h : k.val < 8 then some ⟨k.val + 1, by omega⟩ else none

/-- BOFF - 1 (R72); used only with 1 ≤ BOFF. -/
def boffDown (k : Fin 9) : Fin 9 := ⟨k.val - 1, by omega⟩

/-- The mode a command needs, where it needs one (R85): CONSTRUCT and CLOSE have no mode check. -/
def needsMode : Instr → Option Mode
  | .constructR _ => none
  | .constructW => none
  | .writeBit _ => some .write
  | .readBit => some .read
  | .readByte => some .read
  | .readNbits _ => some .read
  | .close => none

/-- The command is CONSTRUCT, in either mode. -/
def isConstruct : Instr → Bool
  | .constructR _ => true
  | .constructW => true
  | .writeBit _ => false
  | .readBit => false
  | .readByte => false
  | .readNbits _ => false
  | .close => false

/-- The command is CLOSE. -/
def isClose : Instr → Bool
  | .constructR _ => false
  | .constructW => false
  | .writeBit _ => false
  | .readBit => false
  | .readByte => false
  | .readNbits _ => false
  | .close => true

end Sys2Proof.Machine
end

