-- ==== Sys2Proof/Machine/Flags.lean ====
section
/-! DEFINITION. The one flag, LAST, and what is computed from the registers without changing them: the end test (42_read.md
R73), the register codes (10_state.md R15), the status codes (30_encoding.md R59) and the observation vector `status_o`
(10_state.md R24). -/

namespace Sys2Proof.Machine

open Sys2Proof

/-- What a look-ahead finds (R11, R39). -/
inductive Probed where
  | empty
  | more
  deriving DecidableEq, Repr

/-- The value of LAST after a probe (R74, R76). -/
def lastOfProbe : Probed → Bool
  | .empty => true
  | .more => false

/-- `at_end() = (LAST = 1 and BOFF ≤ PAD)` (R73). -/
def atEnd (s : State) : Bool := s.last && decide (s.boff.val ≤ s.pad.toNat)

/-- The two-bit encoding of LC (R15). -/
def lcCode : LC → BitVec 2
  | .idle => 0b00#2
  | .opened => 0b01#2
  | .failed => 0b10#2

/-- The one-bit encoding of MODE (R15, R17). -/
def modeCode : Mode → BitVec 1
  | .read => 0#1
  | .write => 1#1

/-- The four-bit image of BOFF (R15, R19). -/
def boffCode (k : Fin 9) : BitVec 4 := BitVec.ofNat 4 k.val

/-- The four-bit code on `rsp_status` (R59). -/
def statusCode : Status → BitVec 4
  | .ok => 0x0#4
  | .eod => 0x1#4
  | .errMode => 0x2#4
  | .errSymbol => 0x3#4
  | .errNbits => 0x4#4
  | .errNotOpen => 0x5#4
  | .errAlreadyOpen => 0x6#4
  | .errIllegal => 0x7#4
  | .errIo => 0x8#4
  | .errFailed => 0x9#4

/-- `status_o[23:0]` (R24): LC at bit 0, MODE at 2, BOFF at 3, PAD at 7, LAST at 10, ACC at 16; bits 15:11 read 0. While
LC = FAILED the fields ACC, BOFF and LAST show the registers' free values (R30, U11). -/
def statusO (s : State) : BitVec 24 :=
  (lcCode s.lc).setWidth 24 ||| (modeCode s.mode).setWidth 24 <<< 2 ||| (boffCode s.boff).setWidth 24 <<< 3 |||
    s.pad.setWidth 24 <<< 7 ||| (BitVec.ofBool s.last).setWidth 24 <<< 10 ||| s.acc.setWidth 24 <<< 16

end Sys2Proof.Machine
end

