-- ==== Sys2Proof/Machine/Ops.lean ====
section
/-! DEFINITION. The shared operations: the channel primitives (20_memory.md R38 to R41), ending a command
(00_scope.md R12), the checks made before a command executes (60_exceptions.md R85), the I/O-failure action (R87), the reset edge
(70_reset_and_hazards.md R100, R101), the end of a session (43_close.md R80) and the one-bit read step (42_read.md R72 to
R74). The block has no trap entry and no return from one (R91, R92): an error is the response of the command that met it. -/

namespace Sys2Proof.Machine

open Sys2Proof

/-- The outcome of a command or of a step. -/
abbrev Out := Host.Outcome State Fault Refusal

/-! ### Channel accesses -/

/-- How a piece of a command ends that may access a channel. -/
inductive Result (α : Type) where
  /-- Every access so far succeeded; a value and the state. -/
  | done (a : α) (s : State)
  /-- An access failed: IOERR (R38 to R41). -/
  | failed (s : State)
  /-- `rst` was asserted during an access (R101). -/
  | abandoned (s : State)
  /-- An access is never answered (R41). -/
  | silent

/-- Go on with the value of a piece that is done; a piece that stopped stays stopped: the command stops at once and makes
no further access (R87, R101). -/
def Result.bind {α β : Type} (r : Result α) (k : α → State → Result β) : Result β :=
  match r with
  | .done a s => k a s
  | .failed s => .failed s
  | .abandoned s => .abandoned s
  | .silent => .silent

/-- The environment's answer to the next access (R41); past the end of the list it succeeds (log entry 2). -/
def State.answer (s : State) : ChanAnswer := s.chan.headD .ok

/-- The access is made: its answer is used up, and it is on record with what `status_o` shows while it is in flight, the
registers as the command has written them so far (R24). -/
def State.access (a : Access) (s : State) : State :=
  { s with chan := s.chan.tail, accesses := s.accesses ++ [a], shown := s.shown ++ [statusO s] }

/-- IN with these bytes left. -/
def State.setIn (bytes : List Byte) (s : State) : State := { s with chIn := bytes }

/-- OUT with this byte appended (R40). -/
def State.append (b : Byte) (s : State) : State := { s with chOut := s.chOut ++ [b] }

/-- LAST with this value. -/
def State.setLast (b : Bool) (s : State) : State := { s with last := b }

/-- The response holding register loaded with a response (R52). -/
def State.load (st : Status) (d : Data) (s : State) : State := { s with rsp := some ⟨st, d⟩ }

/-- The read channel after an access that did not succeed: its head byte moved or not (R41). -/
def State.popMoved (moved : Bool) (s : State) : State :=
  if moved then s.setIn s.chIn.tail else s

/-- The write channel after an access that did not succeed: the byte moved or not (R41). -/
def State.pushMoved (moved : Bool) (b : Byte) (s : State) : State :=
  if moved then s.append b else s

/-- Whether the transfer in flight took place at the edge of the reset: never while the channel waits (R101). -/
def RstEdge.moved (e : RstEdge) : Bool :=
  match e with
  | .waiting => false
  | .answered _ moved => moved

/-- What a pop returns (R11, R38). -/
inductive Popped where
  | byte (b : Byte)
  | eos
  deriving DecidableEq, Repr

/-- `ChPop()` (R38, R41). -/
def chPop (s : State) : Result Popped :=
  match s.answer with
  | .ok =>
    match s.chIn with
    | [] => .done .eos (s.access .pop)
    | b :: bs => .done (.byte b) ((s.access .pop).setIn bs)
  | .err moved => .failed ((s.access .pop).popMoved moved)
  | .rst e => .abandoned ((s.access .pop).popMoved e.moved)
  | .never => .silent

/-- `ChProbe()`: it never changes IN (R39, R41). -/
def chProbe (s : State) : Result Probed :=
  match s.answer with
  | .ok => .done (if s.chIn = [] then .empty else .more) (s.access .probe)
  | .err _ => .failed (s.access .probe)
  | .rst _ => .abandoned (s.access .probe)
  | .never => .silent

/-- `ChPush(b)` (R40, R41). -/
def chPush (b : Byte) (s : State) : Result Unit :=
  match s.answer with
  | .ok => .done () ((s.access (.push b)).append b)
  | .err moved => .failed ((s.access (.push b)).pushMoved moved b)
  | .rst e => .abandoned ((s.access (.push b)).pushMoved e.moved b)
  | .never => .silent

/-! ### Ending a command -/

/-- `respond(st, d)`: the response holding register is loaded (R12, R52). -/
def respond (st : Status) (d : Data) (s : State) : Out := .next (s.load st d)

/-- The registers of IDLE (R29; `idle()` of R80). -/
def idleRegs (s : State) : State :=
  { s with lc := .idle, mode := .read, acc := 0, boff := 0, pad := 0, last := false }

/-- A rising edge with `rst` = 1: reset registers, response register emptied, neither channel touched (R100, R103). -/
def resetEdge (s : State) : State := { idleRegs s with rsp := none, rst := true }

/-- The registers after `fail_io()`: FAILED, with ACC, BOFF and LAST free; MODE and PAD kept (R30, R87). -/
def failedRegs (s : State) : State :=
  { s with
    lc := .failed
    acc := Config.freeAcc s.draws
    boff := Config.freeBoff s.draws
    last := Config.freeLast s.draws
    draws := s.draws + 1 }

/-- `fail_io()` (R87). -/
def failIo (s : State) : Out := respond .errIo 0 (failedRegs s)

/-- End a command from how its body ended; `onFail` says what a failed access does (R87, or R80 for CLOSE). -/
def Result.finishWith {α : Type} (r : Result α) (onFail : State → Out) (k : α → State → Out) : Out :=
  match r with
  | .done a s => k a s
  | .failed s => onFail s
  | .abandoned s => .next (resetEdge s)
  | .silent => .fault .channelSilent

/-- End of a command for which a failed access is `fail_io()` (R87). -/
def Result.finish {α : Type} (r : Result α) (k : α → State → Out) : Out := r.finishWith failIo k

/-! ### The checks -/

/-- R85's lifecycle checks, its second to fourth lines. -/
def lifecycleError (i : Instr) : LC → Option Status
  | .failed => if isClose i then none else some .errFailed
  | .idle => if isConstruct i then none else some .errNotOpen
  | .opened => if isConstruct i then some .errAlreadyOpen else none

/-- R85's mode checks, its fifth and sixth lines. -/
def modeError (i : Instr) (m : Mode) : Option Status :=
  match needsMode i with
  | none => none
  | some m' => if m' = m then none else some .errMode

/-- R85's operand checks, its last two lines. -/
def operandError : Instr → Option Status
  | .constructR _ => none
  | .constructW => none
  | .writeBit sym => if symLegal sym then none else some .errSymbol
  | .readBit => none
  | .readByte => none
  | .readNbits n => if nbitsLegal n then none else some .errNbits
  | .close => none

/-- R85's `check`, for a word that decodes; `none` is OK. -/
def check (i : Instr) (s : State) : Option Status :=
  ((lifecycleError i s.lc).orElse fun _ => modeError i s.mode).orElse fun _ => operandError i

/-- R64: the first failed check is answered with data 0 and no other change; otherwise the command's rule runs. -/
def guarded (i : Instr) (s : State) (body : State → Out) : Out :=
  match check i s with
  | some st => respond st 0 s
  | none => body s

/-- The answer to an illegal word, in every lifecycle state (R57, R85). -/
def execIllegal (s : State) : Out := respond .errIllegal 0 s

/-! ### The one-bit read step -/

/-- `extract()` (R72). -/
def extract (s : State) : Bool × State :=
  (s.acc.getLsbD (s.boff.val - 1),
    { s with acc := s.acc &&& ~~~(0x01#8 <<< (s.boff.val - 1)), boff := boffDown s.boff })

/-- What the one-bit step gives: a bit or end-of-data (R74). -/
inductive BitRead where
  | bit (b : Bool)
  | eod
  deriving DecidableEq, Repr

/-- The accumulator filled with a byte of which all eight bits are unread (R74). -/
def loadAcc (r : Byte) (s : State) : State := { s with acc := r, boff := 8 }

/-- The end of `rb()`: a bit out of the accumulator (R74). -/
def takeBit (s : State) : Result BitRead := .done (.bit (extract s).1) (extract s).2

/-- The probe after a refill, which sets LAST, and the second end test (R74). -/
def probeLoaded (s : State) : Result BitRead :=
  (chProbe s).bind fun q u =>
    if atEnd (u.setLast (lastOfProbe q)) then .done .eod (u.setLast (lastOfProbe q))
    else takeBit (u.setLast (lastOfProbe q))

/-- The refill of `rb()`: one pop and one probe (R74). -/
def refill (s : State) : Result BitRead :=
  (chPop s).bind fun p t =>
    match p with
    | .eos => .done .eod (t.setLast true)
    | .byte r => probeLoaded (loadAcc r t)

/-- `rb()` (R74): the end test comes before any refill. -/
def rb (s : State) : Result BitRead :=
  if atEnd s then .done .eod s
  else if s.boff.val = 0 then refill s
  else takeBit s

end Sys2Proof.Machine
end

