-- ==== Sys2Proof/Machine/Close.lean ====
section
/-! DEFINITION. CLOSE (43_close.md R80). -/

namespace Sys2Proof.Machine

open Sys2Proof

/-- The padding count of a final byte that holds `k` bits (R80). -/
def padCount (k : Fin 9) : Nat := 8 - k.val

/-- The final byte: its true bits to the top, zeros below (R80). -/
def finalByte (s : State) : Byte := s.acc <<< padCount s.boff

/-- The end of a session without a flush (R80). -/
def release (st : Status) (d : Data) (s : State) : Out := respond st d (idleRegs s)

/-- CLOSE of an open Write session (R80): a failed flush releases all the same. -/
def closeWrite (s : State) : Out :=
  if s.boff.val = 0 then release .ok 0 s
  else
    (chPush (finalByte s) s).finishWith (release .errIo 0) fun _ t =>
      release .ok (countData (padCount s.boff)) t

/-- The body of CLOSE (R80). -/
def closeBody (s : State) : Out :=
  match s.lc, s.mode with
  | .failed, _ => release .errFailed 0 s
  | _, .write => closeWrite s
  | _, .read => release .ok 0 s

/-- CLOSE (R80). -/
def execClose (s : State) : Out := guarded .close s closeBody

end Sys2Proof.Machine
end

