-- ==== Sys2Proof/Machine/Construct.lean ====
section
/-! DEFINITION. CONSTRUCT (40_construct.md R65). -/

namespace Sys2Proof.Machine

open Sys2Proof

/-- R65's register writes: an open session with an empty buffer, not yet at the last byte. -/
def openSession (mode : Mode) (pad : BitVec 3) (s : State) : State :=
  { s with lc := .opened, mode := mode, acc := 0, boff := 0, last := false, pad := pad }

/-- The body of CONSTRUCT (R65): no channel access. -/
def constructBody (mode : Mode) (pad : BitVec 3) (s : State) : Out := respond .ok 0 (openSession mode pad s)

/-- CONSTRUCT in Read mode (R65). -/
def execConstructR (pad : BitVec 3) (s : State) : Out := guarded (.constructR pad) s (constructBody .read pad)

/-- CONSTRUCT in Write mode (R65): PAD is 0. -/
def execConstructW (s : State) : Out := guarded .constructW s (constructBody .write 0)

end Sys2Proof.Machine
end

