-- ==== Sys2Proof/Machine/Read.lean ====
section
/-! DEFINITION. The Read-mode commands READ_BIT (42_read.md R74), READ_BYTE (R76) and READ_NBITS (R78). -/

namespace Sys2Proof.Machine

open Sys2Proof

/-- The body of READ_BIT (R74). -/
def readBitBody (s : State) : Out :=
  (rb s).finish fun r t =>
    match r with
    | .bit b => respond .ok (bitData b) t
    | .eod => respond .eod 0 t

/-- READ_BIT (R74). -/
def execReadBit (s : State) : Out := guarded .readBit s readBitBody

/-- The accumulator after READ_BYTE: it holds the byte and counts as empty (R76, R18). -/
def holdByte (r : Byte) (s : State) : State := { s with acc := r, boff := 0 }

/-- The body of READ_BYTE (R76): the padding count is not consulted. -/
def readByteBody (s : State) : Out :=
  if s.last then respond .eod 0 s
  else
    (chPop s).finish fun p t =>
      match p with
      | .eos => respond .eod 0 (t.setLast true)
      | .byte r =>
        (chProbe (holdByte r t)).finish fun q u =>
          respond .ok (byteData r) (u.setLast (lastOfProbe q))

/-- READ_BYTE (R76). -/
def execReadByte (s : State) : Out := guarded .readByte s readByteBody

/-- `((v << 1) | zext_64(b))[63:0]` (R78). -/
def appendBit (v : Data) (b : Bool) : Data := (v <<< 1) ||| bitData b

/-- The loop of READ_NBITS: `n` more bits after those gathered in `v`; `none` is end-of-data (R78). -/
def gather : Nat → Data → State → Result (Option Data)
  | 0, v, s => .done (some v) s
  | n + 1, v, s =>
    (rb s).bind fun r t =>
      match r with
      | .bit b => gather n (appendBit v b) t
      | .eod => .done none t

/-- The body of READ_NBITS (R78). -/
def readNbitsBody (n : Nat) (s : State) : Out :=
  (gather n 0 s).finish fun r t =>
    match r with
    | some v => respond .ok v t
    | none => respond .eod 0 t

/-- READ_NBITS (R78). -/
def execReadNbits (n : Nat) (s : State) : Out := guarded (.readNbits n) s (readNbitsBody n)

end Sys2Proof.Machine
end

