-- ==== Sys2Proof/Machine/Write.lean ====
section
/-! DEFINITION. WRITE_BIT (41_write.md R68). -/

namespace Sys2Proof.Machine

open Sys2Proof

/-- The accumulator with one more bit: prior bits move left, the new bit at position 0 (R68). -/
def placeBit (b : Bool) (acc : Byte) : Byte := (acc <<< 1) ||| bitByte b

/-- The empty accumulator after a flush (R68). -/
def emptyAcc (s : State) : State := { s with acc := 0, boff := 0 }

/-- The body of WRITE_BIT (R68): the eighth bit flushes the accumulator. -/
def writeBitBody (b : Bool) (s : State) : Out :=
  match boffUp s.boff with
  | none => .fault .boffRange
  | some k =>
    let t := { s with acc := placeBit b s.acc, boff := k }
    if k.val = 8 then (chPush t.acc t).finish fun _ u => respond .ok 0 (emptyAcc u)
    else respond .ok 0 t

/-- WRITE_BIT (R68). -/
def execWriteBit (sym : Byte) (s : State) : Out :=
  guarded (.writeBit sym) s (writeBitBody (symBit sym))

end Sys2Proof.Machine
end

