-- ==== Sys2Proof/Machine/Dispatch.lean ====
section
/-! DEFINITION. One arm per command of the opcode table, each a direct call of its meaning. -/

namespace Sys2Proof.Machine

open Sys2Proof

def exec (i : Instr) (s : State) : Host.Outcome State Fault Refusal :=
  match i with
  | .constructR pad => Sys2Proof.Machine.execConstructR pad s
  | .constructW => Sys2Proof.Machine.execConstructW s
  | .writeBit sym => Sys2Proof.Machine.execWriteBit sym s
  | .readBit => Sys2Proof.Machine.execReadBit s
  | .readByte => Sys2Proof.Machine.execReadByte s
  | .readNbits n => Sys2Proof.Machine.execReadNbits n s
  | .close => Sys2Proof.Machine.execClose s

end Sys2Proof.Machine
end

