-- ==== Sys2Proof/Machine/Ports.lean ====
section
/-! DEFINITION. What the ports show (30_encoding.md R51 to R53, 20_memory.md R34, R35, 70_reset_and_hazards.md R100): the
channel ports at the edge at which an access is answered, the block's outputs between steps and while an access is in
flight, and the ports of a whole command, cycle by cycle. A command is one step (log entry 1). -/

namespace Sys2Proof.Machine

open Sys2Proof

/-- `cmd_ready`: reset is not asserted, no command is in progress, the response holding register is empty (R51). -/
def cmdReady (s : State) : Bool := !s.rst && s.rsp.isNone

/-! ### The channel ports' inputs -/

/-- The inputs of the read-channel port (R34). `data` shows the head byte, and only with `valid` and neither `eos` nor `err`
(log entry 15). -/
structure RdPort where
  valid : Bool
  eos : Bool
  err : Bool
  data : Option Byte
  deriving DecidableEq, Repr

/-- The channel's port while it holds these bytes and has not failed (R34). -/
def rdHead (bytes : List Byte) : RdPort := ⟨true, bytes.isEmpty, false, bytes.head?⟩

/-- The port while the channel has no answer: `ch_rd_valid` = 0, the other inputs then saying nothing (R34, log entry 15). -/
def rdWaiting : RdPort := ⟨false, false, false, none⟩

/-- The port while the channel answers with a failure: `eos` still says whether it holds a byte (R34). -/
def rdFailing (bytes : List Byte) : RdPort := ⟨true, bytes.isEmpty, true, none⟩

/-- The read-channel port at the edge at which a pop or a probe is answered, if that is the next access (R34). Where `rst` cuts
the access short the port is still waiting, or answers at that very edge; it then shows the same whether or not the
transfer took place (R101, log entry 6). -/
def rdPort (s : State) : RdPort :=
  match s.answer with
  | .ok => rdHead s.chIn
  | .err _ => rdFailing s.chIn
  | .rst .waiting => rdWaiting
  | .rst (.answered false _) => rdHead s.chIn
  | .rst (.answered true _) => rdFailing s.chIn
  | .never => rdWaiting

/-- The inputs of the write-channel port (R35). -/
structure WrPort where
  ready : Bool
  err : Bool
  deriving DecidableEq, Repr

/-- The write-channel port at the edge at which a push is answered, if that is the next access (R35): a byte transfers with
`ready` = 1 only. A reset at that edge as in `rdPort` (R101, log entry 6). -/
def wrPort (s : State) : WrPort :=
  match s.answer with
  | .ok => ⟨true, false⟩
  | .err _ => ⟨true, true⟩
  | .rst .waiting => ⟨false, false⟩
  | .rst (.answered failing _) => ⟨true, failing⟩
  | .never => ⟨false, false⟩

/-- `rst` at the edge at which the next access is answered: asserted where it cuts the access short (R101). -/
def rstAtAccess (s : State) : Bool :=
  match s.answer with
  | .ok => false
  | .err _ => false
  | .rst _ => true
  | .never => false

/-! ### What the block drives -/

/-- The block's outputs on the channel ports. `chWrData` shows the byte offered, while `ch_wr_valid` = 1 (R35). -/
structure ChannelDrive where
  chRdPop : Bool
  chWrValid : Bool
  chWrData : Option Byte
  deriving DecidableEq, Repr

/-- What an access drives, by the read port it sees: a pop pulses `ch_rd_pop` only with `valid` = 1, `eos` = 0 and `err` = 0; a
probe leaves it 0; a push offers its byte whatever the port answers, so that the offer stands until the transfer
(R34, R35). With no access in flight nothing is driven. -/
def drive (access : Option Access) (p : RdPort) : ChannelDrive :=
  match access with
  | none => ⟨false, false, none⟩
  | some .pop => ⟨p.valid && !p.eos && !p.err, false, none⟩
  | some .probe => ⟨false, false, none⟩
  | some (.push b) => ⟨false, true, some b⟩

/-- The block's outputs (R53). `rspStatus` and `rspData` show a value exactly while `rsp_valid` = 1: what they show
otherwise the spec does not say (log entry 15). -/
structure Outputs where
  cmdReady : Bool
  rspValid : Bool
  rspStatus : Option (BitVec 4)
  rspData : Option Data
  chRdPop : Bool
  chWrValid : Bool
  chWrData : Option Byte
  statusO : BitVec 24
  deriving DecidableEq, Repr

/-- The outputs with this access in flight, if any, `s` being the state in which it is made: a command in progress holds
`cmd_ready` at 0 (R51). -/
def outputsDuring (access : Option Access) (s : State) : Outputs where
  cmdReady := access.isNone && Sys2Proof.Machine.cmdReady s
  rspValid := s.rsp.isSome
  rspStatus := s.rsp.map fun r => statusCode r.status
  rspData := s.rsp.map fun r => r.data
  chRdPop := (drive access (rdPort s)).chRdPop
  chWrValid := (drive access (rdPort s)).chWrValid
  chWrData := (drive access (rdPort s)).chWrData
  statusO := Sys2Proof.Machine.statusO s

/-- The outputs between steps: no command is in progress and no channel transfer under way (R100, log entry 1). -/
def outputs (s : State) : Outputs := outputsDuring none s

/-! ### The channel ports of a command -/

/-- The channel ports in the cycle in which an access is answered. `rd` shows the read port's inputs during a pop or a probe,
`wr` the write port's during a push. What the other port's inputs show in that cycle the spec leaves to the environment;
that the model shows nothing there is DESIGN CHOICE (log entry 15). `out` is all the block drives, `status_o` among it: where
`rst` is first sampled 1 at the end of this cycle, the registers are reset from that edge on (R100, R101, log entry 6). -/
structure PortCycle where
  access : Access
  rd : Option RdPort
  wr : Option WrPort
  rst : Bool
  out : Outputs
  deriving DecidableEq, Repr

/-- The read port's inputs while this access is answered; during a push they are the environment's and not shown (DESIGN
CHOICE, log entry 15). -/
def rdPortDuring (a : Access) (s : State) : Option RdPort :=
  match a with
  | .pop => some (rdPort s)
  | .probe => some (rdPort s)
  | .push _ => none

/-- The write port's inputs while this access is answered; during a pop or a probe they are the environment's and not shown
(DESIGN CHOICE, log entry 15). -/
def wrPortDuring (a : Access) (s : State) : Option WrPort :=
  match a with
  | .pop => none
  | .probe => none
  | .push _ => some (wrPort s)

/-- The cycle in which this access is answered, with the channels and their answers as in `s` and `status_o` as recorded. -/
def portCycle (a : Access) (status : BitVec 24) (s : State) : PortCycle :=
  ⟨a, rdPortDuring a s, wrPortDuring a s, rstAtAccess s, { outputsDuring (some a) s with statusO := status }⟩

/-- The state a result carries; a silent one carries none. -/
def Result.stateOr {α : Type} (r : Result α) (s : State) : State :=
  match r with
  | .done _ t => t
  | .failed t => t
  | .abandoned t => t
  | .silent => s

/-- The channels after an access. -/
def afterAccess (a : Access) (s : State) : State :=
  match a with
  | .pop => (chPop s).stateOr s
  | .probe => (chProbe s).stateOr s
  | .push b => (chPush b s).stateOr s

/-- The cycles of accesses made one after the other, each complete before the next (20_memory.md R47). -/
def portTrace : List (Access × BitVec 24) → State → List PortCycle
  | [], _ => []
  | p :: rest, s => portCycle p.1 p.2 s :: portTrace rest (afterAccess p.1 s)

/-- The accesses on record in `t` and not yet in `s`, each with what `status_o` showed. -/
def recordedSince (s t : State) : List (Access × BitVec 24) :=
  (t.accesses.drop s.accesses.length).zip (t.shown.drop s.shown.length)

/-- This answer, with a reset in place of a channel that never answers. -/
def cutShort (a : ChanAnswer) : ChanAnswer :=
  match a with
  | .ok => .ok
  | .err moved => .err moved
  | .rst e => .rst e
  | .never => .rst .waiting

/-- The accesses of a command, the last of them unanswered where the command waits for ever. Which they are then is read off
a run in which a reset ends the wait: it makes the same accesses so far (R41, R101, log entry 5). -/
def commandAccesses (i : Instr) (s : State) : List (Access × BitVec 24) :=
  match exec i s with
  | .next t => recordedSince s t
  | .fault _ =>
    match exec i { s with chan := s.chan.map cutShort } with
    | .next t => recordedSince s t
    | .fault _ => []
    | .refused _ => []
  | .refused _ => []

/-- The ports of a command, cycle by cycle: the channels' and all that the block drives, `status_o` among it (R24). Where the
last access is never answered its cycle stands for ever (R41, R99). -/
def commandCycles (i : Instr) (s : State) : List PortCycle := portTrace (commandAccesses i s) s

end Sys2Proof.Machine
end

