-- ==== Sys2Proof/Machine/HostMoves.lean ====
section
/-! DEFINITION. What the host does between commands (70_reset_and_hazards.md R104, R106). A host that breaks a duty has no
move: the step is refused (20_memory.md R37, U10). -/

namespace Sys2Proof.Machine

open Sys2Proof

/-- A Read session is not ended yet, failed or not: its read channel must stay as it is (R14, R37; log entry 10). -/
def inReadSession (s : State) : Bool := s.lc != .idle && s.mode == .read

/-- The response transfers: the holding register is empty again (R52), and the response is on the host's record (R117). -/
def takeResponse (s : State) : State :=
  { s with rsp := none, taken := s.taken ++ s.rsp.toList }

/-- `cmd_valid` rises with this word (R50). -/
def raiseWord (w : Word) (s : State) : Out :=
  if s.cmd.isNone then .next { s with cmd := some w } else .refused .wordNotHeld

/-- A read channel with these bytes is connected (R33, R104). -/
def connectChannel (bytes : List Byte) (s : State) : Out :=
  if inReadSession s then .refused .channelSwapped else .next { s with chIn := bytes }

/-- One event of the host. -/
def hostEvent (e : HostEvent) (s : State) : Out :=
  match e with
  | .raise w => raiseWord w s
  | .take => .next (takeResponse s)
  | .assertRst => .next (resetEdge s)
  | .releaseRst => .next { s with rst := false }
  | .connect bytes => connectChannel bytes s

/-- The host's next event; with none pending the block holds its state (R99). -/
def hostMove (s : State) : Out :=
  match s.host with
  | [] => .next s
  | e :: rest => hostEvent e { s with host := rest }

end Sys2Proof.Machine
end

