-- ==== Sys2Proof/Machine/Accept.lean ====
section
/-! DEFINITION. Accepting a command word from the command port (40_construct.md R64). -/

namespace Sys2Proof.Machine

open Sys2Proof

/-- R64's command step on the accepted word: decode it, and answer an illegal word with ERR_ILLEGAL. -/
def runWord (w : Word) (s : State) : Out :=
  match decode w with
  | some i => exec i s
  | none => execIllegal s

/-- One step: a waiting word transfers when `cmd_ready` = 1 (R50, R51) and its command runs to its response; otherwise the
host moves. -/
def stepOnce (s : State) : Out :=
  if cmdReady s then
    match s.cmd with
    | some w => runWord w { s with cmd := none }
    | none => hostMove s
  else hostMove s

/-- The host has this word on the command port, `rst` low, and has taken any response. -/
def presentWord (w : Word) (s : State) : State :=
  { takeResponse s with rst := false, cmd := some w }

end Sys2Proof.Machine
end

