-- ==== Sys2Proof/Machine/Step.lean ====
section
/-! DEFINITION. The step function and where it takes its next command from: the command port, not a program counter
(10_state.md R22, 30_encoding.md R50). -/

namespace Sys2Proof.Machine

open Sys2Proof

/-- One step of the machine. -/
def step (s : State) : Host.Outcome State Fault Refusal := stepOnce s

/-- `s` with the word on the command port so that the very next step accepts it (log entry 13). -/
def State.withFetchWord (s : State) (nbits w : Nat) : State := presentWord (tableWord nbits w) s

end Sys2Proof.Machine
end

