-- ==== Sys2Proof/Machine/HostSide.lean ====
section
/-! DEFINITION. The host's side of a run: issuing one word and taking its response, a finite run of words
(70_reset_and_hazards.md R117), and the pseudo-instruction WRITE_BITSTRING (30_encoding.md R63, 41_write.md R70). -/

namespace Sys2Proof.Machine

open Sys2Proof

/-- The host issues one word and takes its response: the response and the state after it is taken. `none` where no response
comes: a reset abandoned the command, or the block waits for ever (R101, R115), or the port was not ready. -/
def issue (w : Word) (s : State) : Option (Response × State) :=
  if cmdReady s then
    match step { s with cmd := some w } with
    | .next t => t.rsp.map fun r => (r, takeResponse t)
    | .fault _ => none
    | .refused _ => none
  else none

/-- A run: the words one at a time, each after the previous response has been taken (R117). -/
def issueAll : List Word → State → Option (List Response × State)
  | [], s => some ([], s)
  | w :: ws, s =>
    (issue w s).bind fun rt => (issueAll ws rt.2).map fun q => (rt.1 :: q.1, q.2)

/-- `write_bitstring`: one WRITE_BIT per character, stopping at the first status that is not OK (R70). -/
def writeBitstring : List Byte → State → Option (Status × State)
  | [], s => some (.ok, s)
  | c :: cs, s =>
    (issue (encode (.writeBit c)) s).bind fun rt =>
      if rt.1.status = .ok then writeBitstring cs rt.2 else some (rt.1.status, rt.2)

/-- R117's observation of a run. The registers ACC, BOFF and LAST of a FAILED end are not to be read. -/
structure Observation where
  responses : List Response
  lc : LC
  mode : Mode
  acc : Byte
  boff : Fin 9
  pad : BitVec 3
  last : Bool
  chIn : List Byte
  chOut : List Byte
  deriving DecidableEq, Repr

/-- What a run that ended shows (R117). -/
def observe (s : State) : Observation :=
  ⟨s.taken, s.lc, s.mode, s.acc, s.boff, s.pad, s.last, s.chIn, s.chOut⟩

/-- The run has ended: nothing is pending at the ports and the host has no further event (R117). -/
def runEnded (s : State) : Bool := s.cmd.isNone && s.host.isEmpty && cmdReady s

end Sys2Proof.Machine
end

