-- ==== Sys2Proof/Safety.lean ====
section
/-! DEFINITION. The terms the claims use: the invariant of every reached state (10_state.md R27, R29), the premises on the
environment (20_memory.md R41, 70_reset_and_hazards.md R106, R115), and the bit streams that the
channels and the accumulator hold (20_memory.md R42, R43). -/

namespace Sys2Proof

open Sys2Proof.Machine

/-! ### The registers as one value -/

/-- The six architectural registers (R15). -/
structure Regs where
  lc : LC
  mode : Mode
  acc : Byte
  boff : Fin 9
  pad : BitVec 3
  last : Bool
  deriving DecidableEq, Repr

/-- The registers of a state. -/
def regs (s : State) : Regs := ⟨s.lc, s.mode, s.acc, s.boff, s.pad, s.last⟩

/-- The values every register holds at reset and whenever LC = IDLE (R28, R29). -/
def idleValues : Regs := ⟨.idle, .read, 0, 0, 0, false⟩

/-- The two channels and the record of accesses made to them. -/
def channels (s : State) : List Byte × List Byte × List Access := (s.chIn, s.chOut, s.accesses)

/-- Everything that is not the block's: the host's pins, events and records, and the answers still to come. -/
def environment (s : State) : Bool × Option Word × List HostEvent × List ChanAnswer × List Response :=
  (s.rst, s.cmd, s.host, s.chan, s.taken)

/-! ### Premises on the environment -/

/-- Every draw succeeds (R41). -/
abbrev AllOk (s : State) : Prop := ∀ a ∈ s.chan, a = ChanAnswer.ok

/-- The answer is a success or a failure: it comes, and no reset cuts it short. -/
def answerComes (a : ChanAnswer) : Bool :=
  match a with
  | .ok => true
  | .err _ => true
  | .rst _ => false
  | .never => false

/-- Every channel access is answered, and none is cut short by a reset (R106, R115). -/
abbrev AllAnswered (s : State) : Prop := ∀ a ∈ s.chan, answerComes a = true

/-- An open Write session. -/
abbrev Writing (s : State) : Prop := s.lc = .opened ∧ s.mode = .write

/-- An open Read session. -/
abbrev Reading (s : State) : Prop := s.lc = .opened ∧ s.mode = .read

/-- The command port accepts a word: `cmd_ready` = 1 (R51). -/
abbrev Ready (s : State) : Prop := cmdReady s = true

/-- Between commands BOFF is at most 7 (R19). -/
abbrev CountOk (s : State) : Prop := s.boff.val ≤ 7

/-! ### The invariant -/

/-- What holds in every state reached from reset, between commands (R27 and the rules named on each line; log entry 11). -/
structure Inv (s : State) : Prop where
  /-- I1 (R19, R27). -/
  boff_le : s.lc ≠ .failed → s.boff.val ≤ 7
  /-- I2 (R18, R20, R21, R27). -/
  write_regs : s.lc = .opened → s.mode = .write → s.acc.toNat < 2 ^ s.boff.val ∧ s.pad = 0 ∧ s.last = false
  /-- I3, where the last write of ACC may have been READ_BYTE's, which leaves BOFF = 0 (R18, R27). -/
  read_acc : s.lc = .opened → s.mode = .read → s.acc.toNat < 2 ^ s.boff.val ∨ s.boff.val = 0
  /-- I4 (R27, R29). -/
  idle_regs : s.lc = .idle → regs s = idleValues
  /-- I5: nothing is buffered, or the read channel held a byte at the last probe and still holds it (R27). -/
  look_ahead : s.lc = .opened → s.mode = .read → s.last = false → (s.boff.val = 0 ∧ s.acc = 0) ∨ s.chIn ≠ []
  /-- LAST = 1 in an open session says that the channel has no further byte (R21, C4). -/
  last_empty : s.lc = .opened → s.last = true → s.chIn = []
  /-- PAD holds 0 in Write mode, a failed session included (R20, R30). -/
  write_pad : s.mode = .write → s.pad = 0
  /-- While `rst` = 1 the block is in its reset state and shows no response (R100). -/
  rst_idle : s.rst = true → s.lc = .idle ∧ s.rsp = none
  /-- The data of a response other than OK is 0 (R60). -/
  rsp_data : ∀ r, s.rsp = some r → r.status ≠ .ok → r.data = 0

/-! ### Bit streams -/

/-- The low `k` bits of a byte, the most significant of them first (R18, R42). -/
def lowBits (b : Byte) : Nat → List Bool
  | 0 => []
  | k + 1 => b.getLsbD k :: lowBits b k

/-- The eight bits of a byte, bit 7 first (R42). -/
def byteBits (b : Byte) : List Bool := lowBits b 8

/-- The bits of a byte sequence in stream order (R42). -/
def streamBits (bs : List Byte) : List Bool := bs.flatMap byteBits

/-- A bit list as an unsigned number, the first bit most significant (R69, R78). -/
def bitsValue (bs : List Bool) : Nat := bs.foldl (fun v b => 2 * v + b.toNat) 0

/-- The filler bits a final byte needs after `n` bits (R43, R81). -/
def padOf (n : Nat) : Nat := (8 - n % 8) % 8

/-- The data bits a Read session still holds: the unread bits of ACC, then the channel's, less the PAD filler bits at the
end of the stream (R18, R20, R73). -/
def dataBits (s : State) : List Bool :=
  let all := lowBits s.acc s.boff.val ++ streamBits s.chIn
  all.take (all.length - s.pad.toNat)

/-! ### Command lists -/

/-- The words of a run (R117). -/
def words (is : List Instr) : List Word := is.map encode

/-- The WRITE_BITs of a bit list (R63). -/
def writeBits (bits : List Bool) : List Instr := bits.map fun b => .writeBit (bitSym b)

/-- A Read command that asks for at least one bit and that no operand check refuses (R75, R85; log entry 12). -/
def asksForData : Instr → Bool
  | .constructR _ => false
  | .constructW => false
  | .writeBit _ => false
  | .readBit => true
  | .readByte => true
  | .readNbits n => decide (1 ≤ n) && nbitsLegal n
  | .close => false

/-- A pop in the record of accesses. -/
def isPop : Access → Bool
  | .pop => true
  | .probe => false
  | .push _ => false

/-- A probe in the record of accesses. -/
def isProbe : Access → Bool
  | .pop => false
  | .probe => true
  | .push _ => false

/-- A push in the record of accesses. -/
def isPush : Access → Bool
  | .pop => false
  | .probe => false
  | .push _ => true

end Sys2Proof
end

