-- ==== Sys2Proof/Certificates/Slice0/Obligations.lean ====
section
/-! DEFINITION. The statements for the provers, one `def Obligations.<Name> : Prop` each, file by file of the spec. Every
statement holds of all states that meet its premises, whatever answers the environment still has to give. Where a statement
writes a next state out, its `shown` says what `status_o` showed at each access (R24). -/

open Sys2Proof Sys2Proof.Machine

/-! ### Reset and the registers (10_state.md, 70_reset_and_hazards.md) -/

/-- R28: the reset values of the six registers, in the state after reset and at every rising edge with `rst` = 1; the latter
also empties the response register, lets no command in and touches neither channel (R100, R103). The edge is a host event,
and a word that can transfer goes before it, which is the model's choice (log entry 8). -/
def Obligations.ResetSetsEveryRegister : Prop :=
  (State.reset.lc = .idle ∧ State.reset.mode = .read ∧ State.reset.acc = 0x00 ∧ State.reset.boff = 0 ∧
    State.reset.pad = 0 ∧ State.reset.last = false) ∧
  ∀ (s : State) (rest : List HostEvent), (Ready s → s.cmd = none) → s.host = .assertRst :: rest →
    ∃ t, step s = .next t ∧
      t.lc = .idle ∧ t.mode = .read ∧ t.acc = 0x00 ∧ t.boff = 0 ∧ t.pad = 0 ∧ t.last = false ∧
      t.rsp = none ∧ t.rst = true ∧ (outputs t).cmdReady = false ∧ (outputs t).rspValid = false ∧
      statusO t = 0 ∧ channels t = channels s ∧ t.host = rest ∧ t.cmd = s.cmd ∧ t.taken = s.taken

/-- R100, R102: the state after reset accepts a command and meets the invariant. -/
def Obligations.ResetStateMeetsInvariant : Prop :=
  Inv State.reset ∧ Ready State.reset

/-- R27, as log entry 11 reads it: every step from any state that meets the invariant leads to a state that meets it. -/
def Obligations.StepKeepsInvariant : Prop :=
  ∀ s t : State, Inv s → step s = .next t → Inv t

/-- R29: whenever LC = IDLE the registers hold their idle values. It holds after reset and every step keeps it. -/
def Obligations.IdleMeansEveryRegisterZero : Prop :=
  (State.reset.lc = .idle ∧ regs State.reset = idleValues) ∧
  (∀ s t : State, (s.lc = .idle → regs s = idleValues) → step s = .next t → t.lc = .idle → regs t = idleValues) ∧
  ∀ s t : State, s.lc ≠ .idle → exec .close s = .next t → regs t = idleValues

/-- R27 (I3): in a Read session a command other than READ_BYTE leaves ACC below 2^BOFF if it was so before; CONSTRUCT makes
it so, and so does a READ_BIT or READ_NBITS that refills, whatever ACC held, a byte of READ_BYTE among it. -/
def Obligations.ReadAccumulatorHoldsOnlyUnreadBits : Prop :=
  (∀ (s t : State) (pad : BitVec 3), s.lc = .idle → exec (.constructR pad) s = .next t →
    t.acc.toNat < 2 ^ t.boff.val) ∧
  (∀ (i : Instr) (s t : State), Reading s → i ≠ .readByte → s.acc.toNat < 2 ^ s.boff.val →
    exec i s = .next t → Reading t → t.acc.toNat < 2 ^ t.boff.val) ∧
  ∀ (i : Instr) (s t : State), Reading s → (i = .readBit ∨ ∃ n, i = .readNbits n) → exec i s = .next t → Reading t →
    t.chIn ≠ s.chIn → t.acc.toNat < 2 ^ t.boff.val

/-- R27 (I5): counted from the CONSTRUCT that opened the Read session, with LAST = 0 either no channel access has been made
and BOFF = 0, or the read channel still holds the byte the last probe saw. -/
def Obligations.LookAheadSawAByte : Prop :=
  (∀ (s t : State) (pad : BitVec 3), s.lc = .idle → exec (.constructR pad) s = .next t →
    t.accesses = s.accesses ∧ t.boff = 0) ∧
  ∀ (n : Nat) (i : Instr) (s t : State), Reading s → n ≤ s.accesses.length →
    (s.last = false → (s.accesses.length = n ∧ s.boff = 0) ∨ s.chIn ≠ []) →
    exec i s = .next t → Reading t →
    t.last = false → (t.accesses.length = n ∧ t.boff = 0) ∨ t.chIn ≠ []

/-- R16: LC is written only by CONSTRUCT (IDLE to OPEN), by the I/O-failure action (OPEN to FAILED), by CLOSE (OPEN or
FAILED to IDLE) and by reset (any to IDLE); its encoding 0b11 is never held. -/
def Obligations.LifecycleMovesOnlyAsNamed : Prop :=
  (∀ s t : State, step s = .next t → t.lc ≠ s.lc →
    (s.lc = .idle ∧ t.lc = .opened ∧ ∃ w i, s.cmd = some w ∧ decode w = some i ∧ isConstruct i = true) ∨
    (s.lc = .opened ∧ t.lc = .failed ∧ t.rsp = some ⟨.errIo, 0⟩) ∨
    (t.lc = .idle ∧ s.cmd = some (encode .close)) ∨
    (t.lc = .idle ∧ t.rst = true)) ∧
  ∀ s : State, lcCode s.lc ≠ 0b11

/-- R67: within a session MODE and PAD never change. -/
def Obligations.ModeAndPadFixedInASession : Prop :=
  ∀ s t : State, step s = .next t → s.lc ≠ .idle → t.lc ≠ .idle → t.mode = s.mode ∧ t.pad = s.pad

/-- R21: within a session, once LAST = 1 it stays 1, and LAST is never set in Write mode. -/
def Obligations.LastStaysSetInASession : Prop :=
  ∀ s t : State, step s = .next t → s.lc = .opened → t.lc = .opened →
    (s.last = true → t.last = true) ∧ (s.mode = .write → t.last = s.last)

/-- R24: the fields of the observation vector, which shows the registers between commands and at every access of a command in
progress: what the ports of a command show is what the accesses put on record, an open session with its MODE and PAD, a
READ_BIT or READ_NBITS popping with BOFF = 0 and probing with BOFF = 8, a WRITE_BIT pushing with BOFF = 8 and the byte in
ACC, a CLOSE with the registers it found. -/
def Obligations.StatusVectorShowsTheRegisters : Prop :=
  (∀ s : State,
    (statusO s).extractLsb' 0 2 = lcCode s.lc ∧ lcCode .idle = 0b00 ∧ lcCode .opened = 0b01 ∧ lcCode .failed = 0b10 ∧
    (statusO s).getLsbD 2 = decide (s.mode = .write) ∧
    ((statusO s).extractLsb' 3 4).toNat = s.boff.val ∧
    (statusO s).extractLsb' 7 3 = s.pad ∧
    (statusO s).getLsbD 10 = s.last ∧
    (statusO s).extractLsb' 11 5 = 0 ∧
    (statusO s).extractLsb' 16 8 = s.acc ∧
    ∀ access, (outputsDuring access s).statusO = statusO s) ∧
  ∀ (i : Instr) (s t : State), exec i s = .next t →
    ∃ new : List (Access × BitVec 24),
      t.accesses = s.accesses ++ new.map Prod.fst ∧ t.shown = s.shown ++ new.map Prod.snd ∧
      (commandCycles i s).map (fun c => (c.access, c.out.statusO)) = new ∧
      ∀ p ∈ new,
        p.2.extractLsb' 0 2 = lcCode .opened ∧ p.2.getLsbD 2 = decide (s.mode = .write) ∧
        p.2.extractLsb' 7 3 = s.pad ∧
        (i = .readBit ∨ (∃ n, i = .readNbits n) →
          (p.1 = .pop → ((p.2.extractLsb' 3 4).toNat = 0 ∧ p.2.getLsbD 10 = false)) ∧
          (p.1 = .probe → (p.2.extractLsb' 3 4).toNat = 8 ∧ p.2.getLsbD 10 = false)) ∧
        (∀ sym b, i = .writeBit sym → p.1 = .push b →
          (p.2.extractLsb' 3 4).toNat = 8 ∧ p.2.extractLsb' 16 8 = b) ∧
        (i = .close → p.2 = statusO s)

/-! ### Encoding (30_encoding.md) -/

/-- R58: words written out from the encoding rules decode to the commands they stand for, and illegal ones to none. -/
def Obligations.WordsDecodeToTheirCommands : Prop :=
  decode 0b0001010100000000 = some (.constructR 5) ∧
  decode 0b0001100000000000 = some .constructW ∧
  decode 0b0010000000110001 = some (.writeBit 0x31) ∧
  decode 0b0011000000000000 = some .readBit ∧
  decode 0b0100000000000000 = some .readByte ∧
  decode 0b0101000001000000 = some (.readNbits 64) ∧
  decode 0b0110000000000000 = some .close ∧
  decode 0b0001100100000000 = none ∧
  decode 0b0101000010000000 = none ∧
  decode 0b0000000000000000 = none

/-- R54 to R58: decoding undoes encoding for every well-formed command, and a word that decodes is the encoding of its
command and of no other. -/
def Obligations.DecodeAndEncodeAreInverse : Prop :=
  (∀ i : Instr, i.wf = true → decode (encode i) = some i) ∧
  ∀ (w : Word) (i : Instr), decode w = some i → i.wf = true ∧ encode i = w

/-- R56: exactly one row of the opcode map or none matches any word, the row being its command's, and no row has an
unassigned OP or the name WRITE_BITSTRING. -/
def Obligations.OpcodeMapSelectsOneRowOrNone : Prop :=
  (∀ w : Word, (opcodeTable.filter fun r => r.selects w).map (fun r => r.mnemonic) =
    ((decode w).map Instr.mnemonic).toList) ∧
  (∀ w : Word, (w.extractLsb' 12 4 = 0x0 ∨ 0x7 ≤ (w.extractLsb' 12 4).toNat) →
    ∀ r ∈ opcodeTable, r.selects w = false) ∧
  ∀ r ∈ opcodeTable, r.mnemonic ≠ "WRITE_BITSTRING"

/-- R57: which words are illegal, how they are answered in every lifecycle state, and that a bad SYM or a large N is no
illegal word but is refused when executed. -/
def Obligations.IllegalWordsAreAnsweredErrIllegal : Prop :=
  (∀ w : Word, decode w = none ↔
    (w.extractLsb' 12 4 = 0x0 ∨ 0x7 ≤ (w.extractLsb' 12 4).toNat) ∨
    (w.extractLsb' 12 4 = 0x1 ∧ (w.extractLsb' 0 8 ≠ 0 ∨ (w.getLsbD 11 = true ∧ w.extractLsb' 8 3 ≠ 0))) ∨
    (w.extractLsb' 12 4 = 0x2 ∧ w.extractLsb' 8 4 ≠ 0) ∨
    ((w.extractLsb' 12 4 = 0x3 ∨ w.extractLsb' 12 4 = 0x4 ∨ w.extractLsb' 12 4 = 0x6) ∧ w.extractLsb' 0 12 ≠ 0) ∨
    (w.extractLsb' 12 4 = 0x5 ∧ w.extractLsb' 7 5 ≠ 0)) ∧
  (∀ (s : State) (w : Word), Ready s → s.cmd = some w → decode w = none →
    step s = .next { s with cmd := none, rsp := some ⟨.errIllegal, 0⟩ }) ∧
  (∀ sym : Byte, decode (0x2000 ||| sym.setWidth 16) = some (.writeBit sym)) ∧
  (∀ n : Nat, n < 128 → decode (0x5000 ||| BitVec.ofNat 16 n) = some (.readNbits n)) ∧
  (∀ (s : State) (sym : Byte), Writing s → sym ≠ 0x30 → sym ≠ 0x31 →
    exec (.writeBit sym) s = .next { s with rsp := some ⟨.errSymbol, 0⟩ }) ∧
  ∀ (s : State) (n : Nat), Reading s → 64 < n → exec (.readNbits n) s = .next { s with rsp := some ⟨.errNbits, 0⟩ }

/-- R59: the status codes; the codes 0xA to 0xF are never produced. -/
def Obligations.StatusCodesAreAsListed : Prop :=
  statusCode .ok = 0x0 ∧ statusCode .eod = 0x1 ∧ statusCode .errMode = 0x2 ∧ statusCode .errSymbol = 0x3 ∧
  statusCode .errNbits = 0x4 ∧ statusCode .errNotOpen = 0x5 ∧ statusCode .errAlreadyOpen = 0x6 ∧
  statusCode .errIllegal = 0x7 ∧ statusCode .errIo = 0x8 ∧ statusCode .errFailed = 0x9 ∧
  ∀ (s : State) (c : BitVec 4), (outputs s).rspStatus = some c → c.toNat ≤ 9

/-- R60: the data of each command's OK response, and data 0 for every other status. -/
def Obligations.ResponseDataPerCommand : Prop :=
  ∀ (i : Instr) (s t : State) (r : Response), exec i s = .next t → t.rsp = some r →
    (r.status ≠ .ok → r.data = 0) ∧
    (r.status = .ok →
      match i with
      | .constructR _ => r.data = 0
      | .constructW => r.data = 0
      | .writeBit _ => r.data = 0
      | .readBit => r.data.toNat ≤ 1
      | .readByte => r.data.toNat < 256
      | .readNbits n => r.data.toNat < 2 ^ n
      | .close =>
        (s.mode = .read → r.data = 0) ∧
        (s.mode = .write → s.boff.val ≤ 7 → r.data.toNat = padOf s.boff.val ∧ r.data.toNat ≤ 7))

/-! ### The command step and the ports (30_encoding.md, 40_construct.md) -/

/-- R64, R50: when `cmd_ready` = 1 and the waiting word decodes, the step is exec of its command on the state without the
word. A word placed by `withFetchWord` is run by the very next step (log entry 13). -/
def Obligations.StepRunsTheDecodedCommand : Prop :=
  (∀ (s : State) (w : Word) (i : Instr), Ready s → s.cmd = some w → decode w = some i →
    step s = exec i { s with cmd := none }) ∧
  ∀ (s : State) (w : Nat) (i : Instr), w < 65536 → decodeTableWord 16 w = some i →
    step (s.withFetchWord 16 w) = exec i { takeResponse s with rst := false, cmd := none }

/-- R50, R51: `cmd_ready` = 1 exactly when `rst` is low and the response register is empty, no command being in progress
between steps (log entry 1); while it is 0 a waiting word
stays where it is, no channel access is made and the registers change by reset alone. -/
def Obligations.BusyPortHoldsTheWord : Prop :=
  (∀ s : State, (outputs s).cmdReady = true ↔ s.rst = false ∧ s.rsp = none) ∧
  ∀ (s t : State) (w : Word), (outputs s).cmdReady = false → s.cmd = some w → step s = .next t →
    t.cmd = some w ∧ t.accesses = s.accesses ∧ t.chOut = s.chOut ∧
    (regs t = regs s ∨ (regs t = idleValues ∧ t.rst = true))

/-- R52: an accepted command loads exactly one response unless a reset abandons it (log entry 6); the response stays
unchanged until the host takes it or a reset discards it, and after it is taken the register is empty. -/
def Obligations.OneResponsePerCommandHeldUntilTaken : Prop :=
  (∀ (s t : State) (w : Word), Ready s → s.cmd = some w → step s = .next t →
    t.cmd = none ∧ t.taken = s.taken ∧
    (((outputs t).rspValid = true ∧ t.rst = false) ∨ ((outputs t).rspValid = false ∧ t.rst = true))) ∧
  (∀ (s t : State) (r : Response), s.rsp = some r → step s = .next t →
    (t.rsp = some r ∧ t.taken = s.taken) ∨ (t.rsp = none ∧ t.taken = s.taken ++ [r]) ∨
    (t.rsp = none ∧ t.taken = s.taken ∧ t.rst = true)) ∧
  ∀ (s : State) (r : Response) (rest : List HostEvent), s.rsp = some r → s.host = .take :: rest →
    ∃ t, step s = .next t ∧ (outputs t).rspValid = false ∧ t.taken = s.taken ++ [r] ∧ regs t = regs s ∧
      channels t = channels s ∧ t.host = rest

/-- R50, R52, R117: a host that raises a word and then takes the response (log entry 8) issues that word: three steps, the
response on its record. -/
def Obligations.HostIssuesAWordInThreeSteps : Prop :=
  ∀ (s t : State) (w : Word) (r : Response) (rest : List HostEvent), Ready s → s.cmd = none →
    s.host = .raise w :: .take :: rest → issue w s = some (r, t) →
    ∃ a b c, step s = .next a ∧ step a = .next b ∧ step b = .next c ∧ a.cmd = some w ∧ b.rsp = some r ∧
      c.taken = s.taken ++ [r] ∧ t.taken = s.taken ++ [r] ∧ regs c = regs t ∧ channels c = channels t ∧
      c.host = rest ∧ c.cmd = none ∧ Ready c

/-- R99: with no command to accept and no host event the block holds its state. -/
def Obligations.WaitingBlockHoldsItsState : Prop :=
  ∀ s : State, s.host = [] → (Ready s → s.cmd = none) → step s = .next s

/-- R37, R104 (log entries 8 and 10): a host connects a read channel only outside a Read session, and that changes IN
alone; doing it inside one is refused. -/
def Obligations.ChannelConnectedOnlyBetweenReadSessions : Prop :=
  ∀ (s : State) (bytes : List Byte) (rest : List HostEvent), (Ready s → s.cmd = none) →
    s.host = .connect bytes :: rest →
    (s.lc ≠ .idle → s.mode = .read → step s = .refused .channelSwapped) ∧
    (s.lc = .idle ∨ s.mode = .write → step s = .next { s with host := rest, chIn := bytes })

/-! ### The checks (60_exceptions.md) -/

/-- R85: the checks in their order; the first that fails gives the status of the response, an illegal word being the first
of all. -/
def Obligations.ChecksInTheirOrder : Prop :=
  (∀ (s : State) (w : Word), Ready s → s.cmd = some w → decode w = none →
    ∃ t, step s = .next t ∧ t.rsp = some ⟨.errIllegal, 0⟩) ∧
  (∀ (i : Instr) (s : State) (st : Status), check i s = some st →
    ∃ t, exec i s = .next t ∧ t.rsp.map (fun r => r.status) = some st) ∧
  ∀ (i : Instr) (s : State), check i s =
    if s.lc = .failed ∧ i ≠ .close then some .errFailed
    else if s.lc = .idle ∧ ¬((∃ pad, i = .constructR pad) ∨ i = .constructW) then some .errNotOpen
    else if s.lc = .opened ∧ ((∃ pad, i = .constructR pad) ∨ i = .constructW) then some .errAlreadyOpen
    else match i with
      | .constructR _ => none
      | .constructW => none
      | .writeBit sym =>
        if s.mode = .read then some .errMode else if sym ≠ 0x30 ∧ sym ≠ 0x31 then some .errSymbol else none
      | .readBit => if s.mode = .write then some .errMode else none
      | .readByte => if s.mode = .write then some .errMode else none
      | .readNbits n =>
        if s.mode = .write then some .errMode else if 64 < n then some .errNbits else none
      | .close => none

/-- R84: a command refused by a check, or an illegal word, is answered with data 0 and changes nothing else. -/
def Obligations.RefusedCommandsOnlyAnswer : Prop :=
  (∀ (i : Instr) (s : State) (st : Status), check i s = some st →
    exec i s = .next { s with rsp := some ⟨st, 0⟩ }) ∧
  ∀ (s : State) (w : Word), Ready s → s.cmd = some w → decode w = none →
    step s = .next { s with cmd := none, rsp := some ⟨.errIllegal, 0⟩ }

/-- R86: a FAILED session answers every command but CLOSE with ERR_FAILED and no effect, CLOSE releases it without a channel
access, and the unspecified ACC, BOFF and LAST reach no response. -/
def Obligations.FailedSessionOnlyCloses : Prop :=
  (∀ (i : Instr) (s : State), s.lc = .failed → i ≠ .close →
    exec i s = .next { s with rsp := some ⟨.errFailed, 0⟩ }) ∧
  (∀ s : State, s.lc = .failed → ∃ t, exec .close s = .next t ∧ t.rsp = some ⟨.errFailed, 0⟩ ∧ regs t = idleValues ∧
    channels t = channels s ∧ environment t = environment s) ∧
  ∀ (i : Instr) (s t : State) (acc : Byte) (boff : Fin 9) (last : Bool), s.lc = .failed → exec i s = .next t →
    ∃ u, exec i { s with acc := acc, boff := boff, last := last } = .next u ∧ u.rsp = t.rsp

/-! ### CONSTRUCT (40_construct.md) -/

/-- R65: what CONSTRUCT does from IDLE, in each mode, how it is refused while a session is open or failed, and that a Write
CONSTRUCT with PAD other than 0 is an illegal word. -/
def Obligations.ConstructOpensASession : Prop :=
  (∀ s : State, s.lc = .idle →
    (∀ pad : BitVec 3, exec (.constructR pad) s = .next
      { s with lc := .opened, mode := .read, acc := 0x00, boff := 0, last := false, pad := pad, rsp := some ⟨.ok, 0⟩ }) ∧
    exec .constructW s = .next
      { s with lc := .opened, mode := .write, acc := 0x00, boff := 0, last := false, pad := 0, rsp := some ⟨.ok, 0⟩ }) ∧
  (∀ (s : State) (i : Instr), isConstruct i = true →
    (s.lc = .failed → exec i s = .next { s with rsp := some ⟨.errFailed, 0⟩ }) ∧
    (s.lc = .opened → exec i s = .next { s with rsp := some ⟨.errAlreadyOpen, 0⟩ })) ∧
  (∀ pad : BitVec 3, decode (0x1000 ||| (pad.setWidth 16 <<< 8)) = some (.constructR pad)) ∧
  decode 0x1800 = some .constructW ∧
  ∀ pad : BitVec 3, pad ≠ 0 → decode (0x1800 ||| (pad.setWidth 16 <<< 8)) = none

/-! ### The channel primitives (20_memory.md) -/

/-- R38, R34: what ChPop does for each answer of the read-channel port, and when `ch_rd_pop` pulses; without an answer it waits
for ever or is cut short by a reset; a reset at the very edge of the answer, be it a byte or a failure, leaves the byte
consumed or not (log entries 5 and 6). -/
def Obligations.PopFollowsTheReadPort : Prop :=
  ∀ s : State,
    ((outputsDuring (some .pop) s).chRdPop = true ↔
      (rdPort s).valid = true ∧ (rdPort s).eos = false ∧ (rdPort s).err = false) ∧
    ((rdPort s).valid = true → ((rdPort s).eos = true ↔ s.chIn = [])) ∧
    ((rdPort s).valid = true → (rdPort s).err = false → (rdPort s).eos = false → rstAtAccess s = false →
      ∃ (b : Byte) (t : State), (rdPort s).data = some b ∧ chPop s = .done (.byte b) t ∧ s.chIn = b :: t.chIn) ∧
    ((rdPort s).valid = true → (rdPort s).err = false → (rdPort s).eos = true → rstAtAccess s = false →
      ∃ t : State, chPop s = .done .eos t ∧ s.chIn = [] ∧ t.chIn = []) ∧
    ((rdPort s).valid = true → (rdPort s).err = true → rstAtAccess s = false →
      ∃ t : State, chPop s = .failed t ∧ (t.chIn = s.chIn ∨ t.chIn = s.chIn.tail)) ∧
    ((rdPort s).valid = false → rstAtAccess s = false → chPop s = .silent) ∧
    (rstAtAccess s = true →
      ∃ t : State, chPop s = .abandoned t ∧ ((rdPort s).valid = false → t.chIn = s.chIn) ∧
        (t.chIn = s.chIn ∨
          ((outputsDuring (some .pop) s).chRdPop = true ∨ (rdPort s).err = true) ∧ t.chIn = s.chIn.tail))

/-- R39, R34: what ChProbe returns; it never changes IN and never pulses `ch_rd_pop`. Without an answer as for ChPop (log
entries 5 and 6). -/
def Obligations.ProbeNeverChangesTheChannel : Prop :=
  ∀ s : State,
    (outputsDuring (some .probe) s).chRdPop = false ∧
    ((rdPort s).valid = true → (rdPort s).err = false → rstAtAccess s = false →
      ∃ t : State, chProbe s = .done (if s.chIn = [] then .empty else .more) t ∧ t.chIn = s.chIn) ∧
    ((rdPort s).valid = true → (rdPort s).err = true → rstAtAccess s = false →
      ∃ t : State, chProbe s = .failed t ∧ t.chIn = s.chIn) ∧
    ((rdPort s).valid = false → rstAtAccess s = false → chProbe s = .silent) ∧
    (rstAtAccess s = true → ∃ t : State, chProbe s = .abandoned t ∧ t.chIn = s.chIn)

/-- R40, R35: the offer of ChPush stands at the port whatever the port answers, and what ChPush does for each answer; a byte
is appended only with `ch_wr_ready` = 1. Without an answer as for ChPop (log entries 5 and 6). -/
def Obligations.PushAppendsTheByte : Prop :=
  ∀ (s : State) (b : Byte),
    ((outputsDuring (some (.push b)) s).chWrValid = true ∧ (outputsDuring (some (.push b)) s).chWrData = some b) ∧
    ((wrPort s).ready = true → (wrPort s).err = false → rstAtAccess s = false →
      ∃ t : State, chPush b s = .done () t ∧ t.chOut = s.chOut ++ [b]) ∧
    ((wrPort s).ready = true → (wrPort s).err = true → rstAtAccess s = false →
      ∃ t : State, chPush b s = .failed t ∧ (t.chOut = s.chOut ∨ t.chOut = s.chOut ++ [b])) ∧
    ((wrPort s).ready = false → rstAtAccess s = false → chPush b s = .silent) ∧
    (rstAtAccess s = true →
      ∃ t : State, chPush b s = .abandoned t ∧
        (t.chOut = s.chOut ∨ (wrPort s).ready = true ∧ t.chOut = s.chOut ++ [b]))

/-- R41: of a failed access both outcomes are admitted, its byte moved or not; the draw is the environment's (log entry
3). -/
def Obligations.BothOutcomesOfAFailedAccess : Prop :=
  ∀ (s : State) (b : Byte) (rest : List ChanAnswer),
    (∃ t, chPop { s with chan := .err false :: rest } = .failed t ∧ t.chIn = s.chIn) ∧
    (∃ t, chPop { s with chan := .err true :: rest } = .failed t ∧ t.chIn = s.chIn.tail) ∧
    (∃ t, chPush b { s with chan := .err false :: rest } = .failed t ∧ t.chOut = s.chOut) ∧
    (∃ t, chPush b { s with chan := .err true :: rest } = .failed t ∧ t.chOut = s.chOut ++ [b])

/-- R36: pops and probes are made by Read commands in a Read session only, pushes by WRITE_BIT and CLOSE in a Write session
only; CONSTRUCT, refused commands and illegal words make no access; a channel changes only by its own accesses. -/
def Obligations.EachChannelOnlyInItsMode : Prop :=
  (∀ (s t : State) (w : Word), Ready s → s.cmd = some w → decode w = none → step s = .next t →
    channels t = channels s) ∧
  ∀ (i : Instr) (s t : State), exec i s = .next t →
    ∃ new : List Access, t.accesses = s.accesses ++ new ∧
      ((isConstruct i = true ∨ ∃ st, check i s = some st) → new = []) ∧
      (∀ a ∈ new, (isPop a = true ∨ isProbe a = true) →
        Reading s ∧ (i = .readBit ∨ i = .readByte ∨ ∃ n, i = .readNbits n)) ∧
      (∀ a ∈ new, isPush a = true → Writing s ∧ (i = .close ∨ ∃ sym, i = .writeBit sym)) ∧
      (t.chIn ≠ s.chIn → ∃ a ∈ new, isPop a = true) ∧
      (t.chOut ≠ s.chOut → ∃ a ∈ new, isPush a = true)

/-- R45: how many channel transfers each command makes at most. -/
def Obligations.AccessesPerCommandAreBounded : Prop :=
  ∀ (i : Instr) (s t : State), exec i s = .next t →
    ∃ new : List Access, t.accesses = s.accesses ++ new ∧
      match i with
      | .constructR _ => new = []
      | .constructW => new = []
      | .writeBit _ => new.length ≤ 1
      | .readBit => new.countP isPop ≤ 1 ∧ new.countP isProbe ≤ 1 ∧ new.length ≤ 2
      | .readByte => new.countP isPop ≤ 1 ∧ new.countP isProbe ≤ 1 ∧ new.length ≤ 2
      | .readNbits n => new.countP isPop ≤ (n + 7) / 8 ∧ new.countP isProbe ≤ (n + 7) / 8
      | .close => new.length ≤ 1

/-! ### WRITE_BIT and WRITE_BITSTRING (41_write.md) -/

/-- R68: bits one to seven of a group are placed without a channel access. -/
def Obligations.WriteBitPlacesTheBit : Prop :=
  ∀ (s : State) (b : Bool) (k : Fin 9), Writing s → s.boff.val ≤ 6 → k.val = s.boff.val + 1 →
    exec (.writeBit (bitSym b)) s = .next
      { s with acc := BitVec.ofNat 8 (2 * s.acc.toNat + b.toNat), boff := k, rsp := some ⟨.ok, 0⟩ }

/-- R68: the eighth bit of a group pushes the byte and empties the accumulator. -/
def Obligations.WriteBitFlushesTheEighthBit : Prop :=
  ∀ (s : State) (b : Bool) (byte : Byte), Writing s → s.boff.val = 7 → s.answer = .ok →
    byte = BitVec.ofNat 8 (2 * s.acc.toNat + b.toNat) →
    exec (.writeBit (bitSym b)) s = .next
      { s with
        acc := 0x00, boff := 0, chOut := s.chOut ++ [byte], chan := s.chan.tail,
        accesses := s.accesses ++ [.push byte], shown := s.shown ++ [statusO { s with acc := byte, boff := 8 }],
        rsp := some ⟨.ok, 0⟩ }

/-- R68, R87, R41: a flush that fails answers ERR_IO and leaves a FAILED session with MODE and PAD kept; nothing is said of
ACC, BOFF and LAST. WRITE_BIT stops only on a flush that is never answered (R41, log entry 5) and on a count that is
already 8, which no state reached from reset holds (R19, U8, log entry 7). -/
def Obligations.WriteBitFailsOrStops : Prop :=
  (∀ (s : State) (b : Bool), Writing s →
    ((∀ t, exec (.writeBit (bitSym b)) s ≠ .next t) ↔ s.boff = 8 ∨ s.boff = 7 ∧ s.answer = .never)) ∧
  ∀ (s : State) (b : Bool) (byte : Byte), Writing s → s.boff.val = 7 →
    byte = BitVec.ofNat 8 (2 * s.acc.toNat + b.toNat) →
    (∀ moved, s.answer = .err moved →
      ∃ t, exec (.writeBit (bitSym b)) s = .next t ∧ t.lc = .failed ∧ t.mode = s.mode ∧ t.pad = s.pad ∧
        t.rsp = some ⟨.errIo, 0⟩ ∧ t.chOut = (if moved then s.chOut ++ [byte] else s.chOut) ∧ t.chIn = s.chIn ∧
        t.accesses = s.accesses ++ [.push byte]) ∧
    (s.answer = .never → exec (.writeBit (bitSym b)) s = .fault .channelSilent)

/-- What WRITE_BIT leaves unchanged when no reset cuts it short: MODE, PAD and the read channel always; LAST, and the write
channel but for the byte pushed at the eighth bit, unless the session fails. -/
def Obligations.WriteBitFrame : Prop :=
  ∀ (s t : State) (sym : Byte), exec (.writeBit sym) s = .next t → t.rst = false →
    t.mode = s.mode ∧ t.pad = s.pad ∧ t.chIn = s.chIn ∧
    t.cmd = s.cmd ∧ t.host = s.host ∧ t.taken = s.taken ∧
    (t.lc = s.lc ∧ t.last = s.last ∧ t.draws = s.draws ∨ s.lc = .opened ∧ t.lc = .failed) ∧
    (t.chOut = s.chOut ∨ Writing s ∧ s.boff.val = 7 ∧ t.chOut = s.chOut ++ [placeBit (symBit sym) s.acc])

/-- R69: the packing law. -/
def Obligations.BitsPackMostSignificantFirst : Prop :=
  ∀ (s : State) (bits : List Bool), Ready s → Writing s → s.acc = 0 → s.boff = 0 → AllOk s →
    ∃ t, issueAll (words (writeBits bits)) s = some (List.replicate bits.length ⟨.ok, 0⟩, t) ∧
      (bits.length ≤ 7 →
        t.boff.val = bits.length ∧ t.acc.toNat = bitsValue bits ∧ t.chOut = s.chOut ∧ t.accesses = s.accesses) ∧
      (bits.length = 8 → ∃ byte : Byte,
        byteBits byte = bits ∧ byte.toNat = bitsValue bits ∧ t.chOut = s.chOut ++ [byte] ∧ t.acc = 0 ∧ t.boff = 0) ∧
      (bits.length % 8 = 0 → ∃ bytes : List Byte,
        t.chOut = s.chOut ++ bytes ∧ bytes.length = bits.length / 8 ∧ streamBits bytes = bits ∧ t.acc = 0 ∧ t.boff = 0)

/-- R70: WRITE_BITSTRING is the WRITE_BITs of its characters in order, stopping at the first status that is not OK; the
empty string does nothing; a bad character is refused after the characters before it; in a Read session nothing is
written. -/
def Obligations.BitstringIsItsWriteBits : Prop :=
  (∀ s : State, writeBitstring [] s = some (.ok, s)) ∧
  (∀ (cs : List Byte) (s t : State) (st : Status), writeBitstring cs s = some (st, t) →
    (st = .ok → ∃ rs : List Response,
      issueAll (words (cs.map .writeBit)) s = some (rs, t) ∧ ∀ r ∈ rs, r.status = .ok) ∧
    (st ≠ .ok → ∃ (pre post : List Byte) (c : Byte) (rs : List Response) (u : State) (r : Response),
      cs = pre ++ c :: post ∧ issueAll (words (pre.map .writeBit)) s = some (rs, u) ∧
      (∀ q ∈ rs, q.status = .ok) ∧ issue (encode (.writeBit c)) u = some (r, t) ∧ r.status = st)) ∧
  (∀ (s : State) (bits : List Bool) (c : Byte) (post : List Byte), Ready s → Writing s → CountOk s → AllOk s →
    c ≠ 0x30 → c ≠ 0x31 →
    ∃ (rs : List Response) (u : State), issueAll (words (writeBits bits)) s = some (rs, u) ∧
      writeBitstring (bits.map bitSym ++ c :: post) s =
        some (.errSymbol, { u with cmd := none, taken := u.taken ++ [⟨.errSymbol, 0⟩] })) ∧
  ∀ (s : State) (c : Byte) (cs : List Byte), Ready s → Reading s →
    writeBitstring (c :: cs) s = some (.errMode, { s with cmd := none, taken := s.taken ++ [⟨.errMode, 0⟩] })

/-- R71: WRITE_BITSTRING is not atomic: a character that fails leaves placed every bit, and flushed every byte, that the
characters before it placed and flushed; only a failed flush changes the registers then, and leaves the session FAILED. -/
def Obligations.BitstringUndoesNothing : Prop :=
  ∀ (cs : List Byte) (s t : State) (st : Status), writeBitstring cs s = some (st, t) →
    s.chOut <+: t.chOut ∧
    (st ≠ .ok → ∃ (pre post : List Byte) (c : Byte) (rs : List Response) (u : State) (r : Response),
      cs = pre ++ c :: post ∧ issueAll (words (pre.map .writeBit)) s = some (rs, u) ∧
      (∀ q ∈ rs, q.status = .ok) ∧ issue (encode (.writeBit c)) u = some (r, t) ∧ r.status = st ∧
      u.chOut <+: t.chOut ∧ (st = .errIo → t.lc = .failed) ∧
      (st ≠ .errIo → regs t = regs u ∧ channels t = channels u))

/-! ### The Read commands (42_read.md) -/

/-- R72: extract() returns ACC[BOFF-1], clears that bit and lowers BOFF by one. -/
def Obligations.ExtractTakesTheTopUnreadBit : Prop :=
  ∀ s : State, 1 ≤ s.boff.val →
    (extract s).1 = s.acc.getLsbD (s.boff.val - 1) ∧
    (∀ j, j < 8 → (extract s).2.acc.getLsbD j = (s.acc.getLsbD j && decide (j ≠ s.boff.val - 1))) ∧
    (extract s).2.boff.val = s.boff.val - 1 ∧
    (extract s).2 = { s with acc := (extract s).2.acc, boff := (extract s).2.boff }

/-- R73: the end test, and that in a session with LAST = 1 it is true exactly when only filler or nothing remains. -/
def Obligations.EndTestMeansNoDataBitRemains : Prop :=
  (∀ s : State, atEnd s = true ↔ s.last = true ∧ s.boff.val ≤ s.pad.toNat) ∧
  ∀ s : State, Inv s → Reading s → s.last = true → (atEnd s = true ↔ dataBits s = [])

/-- R74: a READ_BIT with unread bits in ACC answers the top one and makes no channel access. -/
def Obligations.ReadBitTakesABufferedBit : Prop :=
  ∀ (s : State) (k : Fin 9), Reading s → atEnd s = false → s.boff.val = k.val + 1 →
    exec .readBit s = .next
      { s with
        acc := s.acc &&& ~~~(BitVec.ofNat 8 (2 ^ k.val)), boff := k,
        rsp := some ⟨.ok, if s.acc.getLsbD k.val then 1 else 0⟩ }

/-- R74: a READ_BIT with an empty accumulator pops one byte, probes once, sets LAST from the probe and answers bit 7. -/
def Obligations.ReadBitRefillsTheAccumulator : Prop :=
  ∀ (s : State) (b : Byte) (bs : List Byte), Reading s → s.last = false → s.boff = 0 → s.chIn = b :: bs →
    s.answer = .ok → s.chan.tail.headD .ok = .ok →
    exec .readBit s = .next
      { s with
        acc := b &&& 0x7F, boff := 7, last := decide (bs = []), chIn := bs, chan := s.chan.tail.tail,
        accesses := s.accesses ++ [.pop, .probe],
        shown := s.shown ++ [statusO s, statusO { s with acc := b, boff := 8 }],
        rsp := some ⟨.ok, if b.getLsbD 7 then 1 else 0⟩ }

/-- R88, R74, R76: READ_BIT and READ_BYTE at the end of the data answer EOD, a normal outcome that leaves the session open:
without a channel access where LAST already says so, and with LAST set where the read channel is found empty. READ_BYTE
leaves ACC and BOFF as they are. -/
def Obligations.EndOfDataIsANormalAnswer : Prop :=
  ∀ s : State, Reading s →
    (atEnd s = true → exec .readBit s = .next { s with rsp := some ⟨.eod, 0⟩ }) ∧
    (s.last = true → exec .readByte s = .next { s with rsp := some ⟨.eod, 0⟩ }) ∧
    ∀ i : Instr, (i = .readBit ∧ s.boff = 0) ∨ i = .readByte → s.last = false → s.chIn = [] → s.answer = .ok →
      exec i s = .next
        { s with
          last := true, chan := s.chan.tail, accesses := s.accesses ++ [.pop], shown := s.shown ++ [statusO s],
          rsp := some ⟨.eod, 0⟩ }

/-- R74, R76, R87, R41: a pop or a probe that fails in READ_BIT or READ_BYTE answers ERR_IO, makes no further access and
leaves a FAILED session with MODE and PAD kept; nothing is said of ACC, BOFF and LAST. One never answered stops the machine
(log entry 5). -/
def Obligations.ReadAccessFails : Prop :=
  ∀ (i : Instr) (s : State), (i = .readBit ∧ s.boff = 0) ∨ i = .readByte → Reading s → s.last = false →
    (∀ moved, s.answer = .err moved →
      ∃ t, exec i s = .next t ∧ t.lc = .failed ∧ t.mode = s.mode ∧ t.pad = s.pad ∧ t.rsp = some ⟨.errIo, 0⟩ ∧
        t.chIn = (if moved then s.chIn.tail else s.chIn) ∧ t.chOut = s.chOut ∧ t.accesses = s.accesses ++ [.pop]) ∧
    (∀ (moved : Bool) (b : Byte) (bs : List Byte), s.chIn = b :: bs → s.answer = .ok →
      s.chan.tail.headD .ok = .err moved →
      ∃ t, exec i s = .next t ∧ t.lc = .failed ∧ t.mode = s.mode ∧ t.pad = s.pad ∧ t.rsp = some ⟨.errIo, 0⟩ ∧
        t.chIn = bs ∧ t.chOut = s.chOut ∧ t.accesses = s.accesses ++ [.pop, .probe]) ∧
    (s.answer = .never → exec i s = .fault .channelSilent) ∧
    (∀ (b : Byte) (bs : List Byte), s.chIn = b :: bs → s.answer = .ok → s.chan.tail.headD .ok = .never →
      exec i s = .fault .channelSilent)

/-- R75, with n ≤ 64 as R85 has it (log entry 12): once READ_BIT has answered EOD, every later Read command of the session
that asks for data answers EOD with no register change and no channel access, whatever else but CLOSE is issued. -/
def Obligations.EndOfDataIsStable : Prop :=
  ∀ (s t : State) (d : Data) (is : List Instr), s.rst = false → exec .readBit s = .next t → t.rsp = some ⟨.eod, d⟩ →
    (∀ i ∈ is, i.wf = true ∧ i ≠ .close) →
    ∃ (rs : List Response) (u : State), issueAll (words is) (takeResponse t) = some (rs, u) ∧
      rs.length = is.length ∧ regs u = regs t ∧ channels u = channels t ∧ u.chan = t.chan ∧
      ∀ p ∈ is.zip rs, asksForData p.1 = true → p.2 = ⟨.eod, 0⟩

/-- R76: READ_BYTE returns the next byte of the channel whole, whatever ACC held and whatever PAD is (R77). -/
def Obligations.ReadByteReturnsTheNextByte : Prop :=
  ∀ (s : State) (b : Byte) (bs : List Byte), Reading s → s.last = false → s.chIn = b :: bs →
    s.answer = .ok → s.chan.tail.headD .ok = .ok →
    exec .readByte s = .next
      { s with
        acc := b, boff := 0, last := decide (bs = []), chIn := bs, chan := s.chan.tail.tail,
        accesses := s.accesses ++ [.pop, .probe],
        shown := s.shown ++ [statusO s, statusO { s with acc := b, boff := 0 }],
        rsp := some ⟨.ok, BitVec.ofNat 64 b.toNat⟩ }

/-- R78: READ_NBITS 0 answers OK with 0, makes no access and changes nothing; READ_NBITS with more bits than remain answers
EOD with data 0; with enough, OK with the next n data bits, the first most significant, which are then consumed. -/
def Obligations.ReadNbitsReturnsTheNextDataBits : Prop :=
  (∀ s : State, Reading s → exec (.readNbits 0) s = .next { s with rsp := some ⟨.ok, 0⟩ }) ∧
  ∀ (s : State) (n : Nat), Inv s → Reading s → AllOk s → n ≤ 64 →
    ∃ t, exec (.readNbits n) s = .next t ∧ Reading t ∧ t.pad = s.pad ∧ t.chOut = s.chOut ∧
      (n ≤ (dataBits s).length →
        (∃ v : Data, t.rsp = some ⟨.ok, v⟩ ∧ v.toNat = bitsValue ((dataBits s).take n)) ∧
        dataBits t = (dataBits s).drop n) ∧
      ((dataBits s).length < n → t.rsp = some ⟨.eod, 0⟩ ∧ dataBits t = [])

/-- R74, R42, R73: a Read session is a queue of data bits: READ_BIT answers the first and drops it, or answers EOD when none
remains. -/
def Obligations.ReadBitServesTheDataBitsInOrder : Prop :=
  ∀ s : State, Inv s → Reading s → AllOk s →
    (∀ (b : Bool) (rest : List Bool), dataBits s = b :: rest →
      ∃ t, exec .readBit s = .next t ∧ t.rsp = some ⟨.ok, if b then 1 else 0⟩ ∧ dataBits t = rest ∧ Reading t) ∧
    (dataBits s = [] →
      ∃ t, exec .readBit s = .next t ∧ t.rsp = some ⟨.eod, 0⟩ ∧ dataBits t = [] ∧ Reading t ∧ t.last = true)

/-- R79: the READ_NBITS laws against n READ_BITs, whatever the channel answers; the last clause says the same of a failed
access (R78, R87), without the registers a failure leaves unspecified. -/
def Obligations.ReadNbitsIsRepeatedReadBit : Prop :=
  ∀ (s : State) (n : Nat), Ready s → Reading s → n ≤ 64 →
    (∀ (t : State) (v : Data), exec (.readNbits n) s = .next t → t.rsp = some ⟨.ok, v⟩ →
      ∃ (bits : List Bool) (u : State), bits.length = n ∧
        issueAll (words (List.replicate n .readBit)) s =
          some (bits.map fun b => ⟨.ok, if b then 1 else 0⟩, u) ∧
        v.toNat = bitsValue bits ∧ v.toNat < 2 ^ n ∧
        regs t = regs u ∧ channels t = channels u ∧ t.chan = u.chan) ∧
    (∀ (k : Nat) (rs : List Response) (u w : State) (st : Status), k < n →
      issueAll (words (List.replicate k .readBit)) s = some (rs, u) →
      (∀ r ∈ rs, r.status = .ok) → issue (encode .readBit) u = some (⟨st, 0⟩, w) → st = .eod ∨ st = .errIo →
      ∃ t, exec (.readNbits n) s = .next t ∧ t.rsp = some ⟨st, 0⟩ ∧ (st = .eod → regs t = regs w) ∧ t.lc = w.lc ∧
        t.mode = w.mode ∧ t.pad = w.pad ∧ channels t = channels w ∧ t.chan = w.chan)

/-- What the Read commands leave unchanged when no reset cuts them short: MODE, PAD and the write channel always; LC unless
the session fails; of the read channel only bytes at its head go. -/
def Obligations.ReadCommandsFrame : Prop :=
  ∀ (i : Instr) (s t : State), i = .readBit ∨ i = .readByte ∨ (∃ n, i = .readNbits n) →
    exec i s = .next t → t.rst = false →
    t.mode = s.mode ∧ t.pad = s.pad ∧ t.chOut = s.chOut ∧ t.cmd = s.cmd ∧ t.host = s.host ∧ t.taken = s.taken ∧
    t.chIn <:+ s.chIn ∧
    (t.lc = s.lc ∧ t.draws = s.draws ∨ s.lc = .opened ∧ t.lc = .failed)

/-- R66: PAD alone says where the data ends. A fresh Read session with any PAD on a channel that holds bytes answers exactly
the channel's bits less the last PAD ones, filler or not, and then EOD. -/
def Obligations.PadAloneSaysWhereTheDataEnds : Prop :=
  ∀ (s : State) (pad : BitVec 3) (n : Nat), Ready s → s.lc = .idle → AllOk s → s.chIn ≠ [] →
    n = 8 * s.chIn.length - pad.toNat →
    ∃ u, issueAll (words (.constructR pad :: List.replicate n .readBit ++ [.readBit])) s =
      some (⟨.ok, 0⟩ :: ((streamBits s.chIn).take n).map (fun b => ⟨.ok, if b then 1 else 0⟩) ++ [⟨.eod, 0⟩], u)

/-! ### CLOSE and the laws of whole sessions (43_close.md) -/

/-- R80: CLOSE of a Write session with bits in ACC pushes them at the top of a last byte and answers the filler count. A
final flush that fails answers ERR_IO and releases the session all the same. -/
def Obligations.CloseFlushesThePartialByte : Prop :=
  ∀ (s : State) (byte : Byte), Writing s → 1 ≤ s.boff.val →
    byte = BitVec.ofNat 8 (s.acc.toNat * 2 ^ (8 - s.boff.val)) →
    (s.answer = .ok → exec .close s = .next
      { s with
        lc := .idle, mode := .read, acc := 0x00, boff := 0, pad := 0, last := false,
        chOut := s.chOut ++ [byte], chan := s.chan.tail, accesses := s.accesses ++ [.push byte],
        shown := s.shown ++ [statusO s],
        rsp := some ⟨.ok, BitVec.ofNat 64 (8 - s.boff.val)⟩ }) ∧
    ∀ moved, s.answer = .err moved →
      ∃ t, exec .close s = .next t ∧ t.rsp = some ⟨.errIo, 0⟩ ∧ regs t = idleValues ∧
        t.chOut = (if moved then s.chOut ++ [byte] else s.chOut) ∧ t.chIn = s.chIn ∧
        t.accesses = s.accesses ++ [.push byte]

/-- R80: CLOSE of a Read session, or of a Write session with nothing in ACC, makes no channel access and answers OK, 0. -/
def Obligations.CloseWithNothingToFlush : Prop :=
  ∀ s : State, s.lc = .opened → (s.mode = .write → s.boff = 0) →
    exec .close s = .next
      { s with
        lc := .idle, mode := .read, acc := 0x00, boff := 0, pad := 0, last := false, rsp := some ⟨.ok, 0⟩ }

/-- What CONSTRUCT and CLOSE leave unchanged when no reset cuts them short: the read channel and the host's side always, the
write channel but for the final byte CLOSE pushes. -/
def Obligations.SessionCommandsFrame : Prop :=
  ∀ (i : Instr) (s t : State), isConstruct i = true ∨ i = .close → exec i s = .next t → t.rst = false →
    t.chIn = s.chIn ∧ t.cmd = s.cmd ∧ t.host = s.host ∧ t.taken = s.taken ∧ t.draws = s.draws ∧
    (t.chOut = s.chOut ∨ i = .close ∧ Writing s ∧ 1 ≤ s.boff.val ∧ t.chOut = s.chOut ++ [finalByte s])

/-- R81, R43: the padding law of a whole Write session. -/
def Obligations.WriteSessionPaddingLaw : Prop :=
  ∀ (s : State) (bits : List Bool), Ready s → s.lc = .idle → AllOk s →
    ∃ (t : State) (bytes : List Byte),
      issueAll (words (.constructW :: writeBits bits ++ [.close])) s =
        some (List.replicate (bits.length + 1) ⟨.ok, 0⟩ ++
          [⟨.ok, BitVec.ofNat 64 ((8 - bits.length % 8) % 8)⟩], t) ∧
      t.chOut = s.chOut ++ bytes ∧ bytes.length = (bits.length + 7) / 8 ∧
      streamBits bytes = bits ++ List.replicate ((8 - bits.length % 8) % 8) false ∧ regs t = idleValues

/-- R116, with its READ_NBITS of n ≥ 1 read as n from 1 to 64 (log entry 12): the round-trip law. The record of accesses of
the Read session says that once the last byte has been popped and probed nothing touches the channel again. -/
def Obligations.WrittenBitsReadBack : Prop :=
  ∀ (s : State) (bits : List Bool), Ready s → s.lc = .idle → AllOk s →
    ∃ (t : State) (bytes : List Byte) (p : BitVec 3),
      issueAll (words (.constructW :: writeBits bits ++ [.close])) s =
        some (List.replicate (bits.length + 1) ⟨.ok, 0⟩ ++ [⟨.ok, BitVec.ofNat 64 p.toNat⟩], t) ∧
      t.chOut = s.chOut ++ bytes ∧
      ∀ r : State, Ready r → r.lc = .idle → AllOk r → r.chIn = bytes →
        (∀ later : List Instr, (∀ i ∈ later, asksForData i = true) →
          ∃ u, issueAll (words (.constructR p :: List.replicate bits.length .readBit ++ later)) r =
              some (⟨.ok, 0⟩ :: bits.map (fun b => ⟨.ok, if b then 1 else 0⟩) ++
                List.replicate later.length ⟨.eod, 0⟩, u) ∧
            (bits ≠ [] → u.accesses = r.accesses ++ (List.replicate bytes.length [Access.pop, Access.probe]).flatten) ∧
            (bits = [] → later ≠ [] → u.accesses = r.accesses ++ [.pop])) ∧
        (bits.length ≤ 64 →
          ∃ (u : State) (v : Data),
            issueAll (words [.constructR p, .readNbits bits.length]) r =
              some ([⟨.ok, 0⟩, ⟨.ok, v⟩], u) ∧ v.toNat = bitsValue bits)

/-- R82: after CLOSE the block is IDLE, every command other than CONSTRUCT answers ERR_NOT_OPEN with no effect, and CONSTRUCT
starts a session that does not depend on the ended one. -/
def Obligations.ClosedSessionIsOver : Prop :=
  (∀ s t : State, s.lc ≠ .idle → exec .close s = .next t → t.lc = .idle) ∧
  (∀ (i : Instr) (s : State), s.lc = .idle → isConstruct i = false →
    exec i s = .next { s with rsp := some ⟨.errNotOpen, 0⟩ }) ∧
  ∀ (i : Instr) (s u : State), s.lc = .idle → u.lc = .idle → isConstruct i = true →
    ∃ t v, exec i s = .next t ∧ exec i u = .next v ∧ regs t = regs v ∧ t.lc = .opened ∧ t.rsp = some ⟨.ok, 0⟩

/-! ### Reset in the middle of a command, and completion (70_reset_and_hazards.md) -/

/-- R101, in the form of log entry 6: a reset during a command abandons it: no response, reset registers, completed accesses
stay, so a popped byte stays consumed and a pushed one appended; the transfer in flight took place or not; a response not
yet taken is discarded and nothing is flushed. An offer not yet transferred is withdrawn and its byte not written; a
handshake that the ports show at the edge of the reset may or may not have moved its byte. -/
def Obligations.ResetDuringACommandAbandonsIt : Prop :=
  (∀ (i : Instr) (s t : State), s.rst = false → exec i s = .next t → t.rst = true →
    t.rsp = none ∧ regs t = idleValues ∧ s.chOut <+: t.chOut ∧ t.chIn <:+ s.chIn ∧ s.accesses <+: t.accesses ∧
      t.taken = s.taken) ∧
  (∀ (i : Instr) (s : State) (e : RstEdge), (i = .readBit ∧ s.boff = 0) ∨ i = .readByte → Reading s →
    s.last = false →
    (s.answer = .rst e →
      ∃ t, exec i s = .next t ∧ t.rst = true ∧ t.rsp = none ∧ regs t = idleValues ∧
        t.chIn = (if e.moved then s.chIn.tail else s.chIn) ∧ t.chOut = s.chOut ∧ t.accesses = s.accesses ++ [.pop]) ∧
    ∀ (b : Byte) (bs : List Byte), s.chIn = b :: bs → s.answer = .ok → s.chan.tail.headD .ok = .rst e →
      ∃ t, exec i s = .next t ∧ t.rst = true ∧ t.rsp = none ∧ regs t = idleValues ∧ t.chIn = bs ∧
        t.chOut = s.chOut ∧ t.accesses = s.accesses ++ [.pop, .probe]) ∧
  (∀ (s : State) (n : Nat) (e : RstEdge) (whole rest : List Byte) (more : List ChanAnswer), Reading s →
    s.last = false → s.boff = 0 → s.chIn = whole ++ rest → rest ≠ [] → 8 * whole.length < n → n ≤ 64 →
    s.chan = List.replicate (2 * whole.length) .ok ++ .rst e :: more →
    ∃ t, exec (.readNbits n) s = .next t ∧ t.rst = true ∧ t.rsp = none ∧ regs t = idleValues ∧
      t.chIn = (if e.moved then rest.tail else rest) ∧ t.chOut = s.chOut ∧
      t.accesses = s.accesses ++ (List.replicate whole.length [Access.pop, Access.probe]).flatten ++ [.pop]) ∧
  (∀ (s : State) (b : Bool) (e : RstEdge) (byte : Byte), Writing s → s.boff.val = 7 → s.answer = .rst e →
    byte = BitVec.ofNat 8 (2 * s.acc.toNat + b.toNat) →
    ∃ t, exec (.writeBit (bitSym b)) s = .next t ∧ t.rst = true ∧ t.rsp = none ∧ regs t = idleValues ∧
      t.chOut = (if e.moved then s.chOut ++ [byte] else s.chOut) ∧ t.chIn = s.chIn ∧
      t.accesses = s.accesses ++ [.push byte]) ∧
  (∀ (s : State) (e : RstEdge), Writing s → 1 ≤ s.boff.val → s.answer = .rst e →
    ∃ t, exec .close s = .next t ∧ t.rst = true ∧ t.rsp = none ∧ regs t = idleValues ∧
      t.chOut = (if e.moved then s.chOut ++ [finalByte s] else s.chOut) ∧ t.chIn = s.chIn ∧
      t.accesses = s.accesses ++ [.push (finalByte s)]) ∧
  (∀ (s wait no yes : State) (b : Byte) (failing : Bool) (rest : List ChanAnswer),
    wait = { s with chan := .rst .waiting :: rest } →
    no = { s with chan := .rst (.answered failing false) :: rest } →
    yes = { s with chan := .rst (.answered failing true) :: rest } →
    ((rdPort wait).valid = false ∧ (wrPort wait).ready = false ∧
      (∃ t, chPop wait = .abandoned t ∧ t.chIn = s.chIn) ∧ ∃ t, chPush b wait = .abandoned t ∧ t.chOut = s.chOut) ∧
    ((rdPort no).valid = true ∧ (rdPort no).err = failing ∧ rdPort yes = rdPort no ∧
      (wrPort no).ready = true ∧ (wrPort no).err = failing ∧ wrPort yes = wrPort no) ∧
    (∃ t, chPop no = .abandoned t ∧ t.chIn = s.chIn) ∧ (∃ t, chPop yes = .abandoned t ∧ t.chIn = s.chIn.tail) ∧
    (∃ t, chPush b no = .abandoned t ∧ t.chOut = s.chOut) ∧
    ∃ t, chPush b yes = .abandoned t ∧ t.chOut = s.chOut ++ [b]) ∧
  ∀ (s : State) (r : Response) (rest : List HostEvent), s.rsp = some r → s.host = .assertRst :: rest →
    ∃ t, step s = .next t ∧ t.rsp = none ∧ regs t = idleValues ∧ t.taken = s.taken ∧ channels t = channels s

/-- R115: a command completes, with a response, once every channel access it makes has been answered. -/
def Obligations.AnsweredCommandsComplete : Prop :=
  ∀ (i : Instr) (s : State), CountOk s → AllAnswered s →
    ∃ (t : State) (r : Response), exec i s = .next t ∧ t.rsp = some r ∧ t.rst = s.rst
end

