-- ==== Sys2Proof/Laws/Encoding.lean ====
section
/-! SUPPORT. Command words as numbers: the fields the decoder reads, and the word of each command that has an operand
(30_encoding.md R54, R55). -/

namespace Sys2Proof

theorem field_eq (w : Word) (lo len : Nat) : field w lo len = w.toNat / 2 ^ lo % 2 ^ len := by
  simp [field, BitVec.extractLsb'_toNat, Nat.shiftRight_eq_div_pow]

theorem or_eq_add {k a b : Nat} (h : b < 2 ^ k) : 2 ^ k * a ||| b = 2 ^ k * a + b :=
  (Nat.two_pow_add_eq_or_of_lt h a).symm

theorem encode_constructR_toNat (pad : BitVec 3) : (encode (.constructR pad)).toNat = 4096 + 256 * pad.toNat := by
  have hp := pad.isLt
  have := or_eq_add (k := 11) (a := 2) (b := 256 * pad.toNat) (by omega)
  simp only [encode, BitVec.toNat_or, BitVec.toNat_shiftLeft, BitVec.toNat_setWidth, Nat.shiftLeft_eq,
    BitVec.toNat_ofNat]
  rw [show pad.toNat % 2 ^ 16 * 2 ^ 8 % 2 ^ 16 = 256 * pad.toNat by omega]
  simpa using this

theorem encode_writeBit_toNat (sym : Byte) : (encode (.writeBit sym)).toNat = 8192 + sym.toNat := by
  have hp := sym.isLt
  have := or_eq_add (k := 8) (a := 32) (b := sym.toNat) hp
  simp only [encode, BitVec.toNat_or, BitVec.toNat_setWidth, BitVec.toNat_ofNat]
  rw [show sym.toNat % 2 ^ 16 = sym.toNat by omega]
  simpa using this

theorem encode_readNbits_toNat {n : Nat} (h : n < 128) : (encode (.readNbits n)).toNat = 20480 + n := by
  have := or_eq_add (k := 7) (a := 160) (b := n) h
  simp only [encode, BitVec.toNat_or, BitVec.toNat_ofNat]
  rw [show n % 2 ^ 16 = n by omega]
  simpa using this

/-- The MODE bit of a word. -/
theorem testBit11 (w : Word) : w.getLsbD 11 = decide (w.toNat / 2 ^ 11 % 2 = 1) := by
  simp [BitVec.getLsbD, Nat.testBit_eq_decide_div_mod_eq]

end Sys2Proof
end

