-- ==== Sys2Proof/Laws/State.lean ====
section
/-! SUPPORT. One lemma per field per named update of the state, so that no later proof unfolds a record update. -/

namespace Sys2Proof.Machine

open Sys2Proof

variable (s : State)

/-! ### `access` (R41) -/

@[simp] theorem State.access_lc (a : Access) : (s.access a).lc = s.lc := rfl
@[simp] theorem State.access_mode (a : Access) : (s.access a).mode = s.mode := rfl
@[simp] theorem State.access_acc (a : Access) : (s.access a).acc = s.acc := rfl
@[simp] theorem State.access_boff (a : Access) : (s.access a).boff = s.boff := rfl
@[simp] theorem State.access_pad (a : Access) : (s.access a).pad = s.pad := rfl
@[simp] theorem State.access_last (a : Access) : (s.access a).last = s.last := rfl
@[simp] theorem State.access_rsp (a : Access) : (s.access a).rsp = s.rsp := rfl
@[simp] theorem State.access_chIn (a : Access) : (s.access a).chIn = s.chIn := rfl
@[simp] theorem State.access_chOut (a : Access) : (s.access a).chOut = s.chOut := rfl
@[simp] theorem State.access_rst (a : Access) : (s.access a).rst = s.rst := rfl
@[simp] theorem State.access_cmd (a : Access) : (s.access a).cmd = s.cmd := rfl
@[simp] theorem State.access_host (a : Access) : (s.access a).host = s.host := rfl
@[simp] theorem State.access_chan (a : Access) : (s.access a).chan = s.chan.tail := rfl
@[simp] theorem State.access_accesses (a : Access) : (s.access a).accesses = s.accesses ++ [a] := rfl
@[simp] theorem State.access_shown (a : Access) : (s.access a).shown = s.shown ++ [statusO s] := rfl
@[simp] theorem State.access_taken (a : Access) : (s.access a).taken = s.taken := rfl
@[simp] theorem State.access_draws (a : Access) : (s.access a).draws = s.draws := rfl

/-! ### `setIn` (R38) -/

@[simp] theorem State.setIn_lc (bs : List Byte) : (s.setIn bs).lc = s.lc := rfl
@[simp] theorem State.setIn_mode (bs : List Byte) : (s.setIn bs).mode = s.mode := rfl
@[simp] theorem State.setIn_acc (bs : List Byte) : (s.setIn bs).acc = s.acc := rfl
@[simp] theorem State.setIn_boff (bs : List Byte) : (s.setIn bs).boff = s.boff := rfl
@[simp] theorem State.setIn_pad (bs : List Byte) : (s.setIn bs).pad = s.pad := rfl
@[simp] theorem State.setIn_last (bs : List Byte) : (s.setIn bs).last = s.last := rfl
@[simp] theorem State.setIn_rsp (bs : List Byte) : (s.setIn bs).rsp = s.rsp := rfl
@[simp] theorem State.setIn_chIn (bs : List Byte) : (s.setIn bs).chIn = bs := rfl
@[simp] theorem State.setIn_chOut (bs : List Byte) : (s.setIn bs).chOut = s.chOut := rfl
@[simp] theorem State.setIn_rst (bs : List Byte) : (s.setIn bs).rst = s.rst := rfl
@[simp] theorem State.setIn_cmd (bs : List Byte) : (s.setIn bs).cmd = s.cmd := rfl
@[simp] theorem State.setIn_host (bs : List Byte) : (s.setIn bs).host = s.host := rfl
@[simp] theorem State.setIn_chan (bs : List Byte) : (s.setIn bs).chan = s.chan := rfl
@[simp] theorem State.setIn_accesses (bs : List Byte) : (s.setIn bs).accesses = s.accesses := rfl
@[simp] theorem State.setIn_shown (bs : List Byte) : (s.setIn bs).shown = s.shown := rfl
@[simp] theorem State.setIn_taken (bs : List Byte) : (s.setIn bs).taken = s.taken := rfl
@[simp] theorem State.setIn_draws (bs : List Byte) : (s.setIn bs).draws = s.draws := rfl

/-! ### `append` (R40) -/

@[simp] theorem State.append_lc (b : Byte) : (s.append b).lc = s.lc := rfl
@[simp] theorem State.append_mode (b : Byte) : (s.append b).mode = s.mode := rfl
@[simp] theorem State.append_acc (b : Byte) : (s.append b).acc = s.acc := rfl
@[simp] theorem State.append_boff (b : Byte) : (s.append b).boff = s.boff := rfl
@[simp] theorem State.append_pad (b : Byte) : (s.append b).pad = s.pad := rfl
@[simp] theorem State.append_last (b : Byte) : (s.append b).last = s.last := rfl
@[simp] theorem State.append_rsp (b : Byte) : (s.append b).rsp = s.rsp := rfl
@[simp] theorem State.append_chIn (b : Byte) : (s.append b).chIn = s.chIn := rfl
@[simp] theorem State.append_chOut (b : Byte) : (s.append b).chOut = s.chOut ++ [b] := rfl
@[simp] theorem State.append_rst (b : Byte) : (s.append b).rst = s.rst := rfl
@[simp] theorem State.append_cmd (b : Byte) : (s.append b).cmd = s.cmd := rfl
@[simp] theorem State.append_host (b : Byte) : (s.append b).host = s.host := rfl
@[simp] theorem State.append_chan (b : Byte) : (s.append b).chan = s.chan := rfl
@[simp] theorem State.append_accesses (b : Byte) : (s.append b).accesses = s.accesses := rfl
@[simp] theorem State.append_shown (b : Byte) : (s.append b).shown = s.shown := rfl
@[simp] theorem State.append_taken (b : Byte) : (s.append b).taken = s.taken := rfl
@[simp] theorem State.append_draws (b : Byte) : (s.append b).draws = s.draws := rfl

/-! ### `setLast` (R21) -/

@[simp] theorem State.setLast_lc (b : Bool) : (s.setLast b).lc = s.lc := rfl
@[simp] theorem State.setLast_mode (b : Bool) : (s.setLast b).mode = s.mode := rfl
@[simp] theorem State.setLast_acc (b : Bool) : (s.setLast b).acc = s.acc := rfl
@[simp] theorem State.setLast_boff (b : Bool) : (s.setLast b).boff = s.boff := rfl
@[simp] theorem State.setLast_pad (b : Bool) : (s.setLast b).pad = s.pad := rfl
@[simp] theorem State.setLast_last (b : Bool) : (s.setLast b).last = b := rfl
@[simp] theorem State.setLast_rsp (b : Bool) : (s.setLast b).rsp = s.rsp := rfl
@[simp] theorem State.setLast_chIn (b : Bool) : (s.setLast b).chIn = s.chIn := rfl
@[simp] theorem State.setLast_chOut (b : Bool) : (s.setLast b).chOut = s.chOut := rfl
@[simp] theorem State.setLast_rst (b : Bool) : (s.setLast b).rst = s.rst := rfl
@[simp] theorem State.setLast_cmd (b : Bool) : (s.setLast b).cmd = s.cmd := rfl
@[simp] theorem State.setLast_host (b : Bool) : (s.setLast b).host = s.host := rfl
@[simp] theorem State.setLast_chan (b : Bool) : (s.setLast b).chan = s.chan := rfl
@[simp] theorem State.setLast_accesses (b : Bool) : (s.setLast b).accesses = s.accesses := rfl
@[simp] theorem State.setLast_shown (b : Bool) : (s.setLast b).shown = s.shown := rfl
@[simp] theorem State.setLast_taken (b : Bool) : (s.setLast b).taken = s.taken := rfl
@[simp] theorem State.setLast_draws (b : Bool) : (s.setLast b).draws = s.draws := rfl

/-! ### `load` (R52) -/

@[simp] theorem State.load_lc (st : Status) (d : Data) : (s.load st d).lc = s.lc := rfl
@[simp] theorem State.load_mode (st : Status) (d : Data) : (s.load st d).mode = s.mode := rfl
@[simp] theorem State.load_acc (st : Status) (d : Data) : (s.load st d).acc = s.acc := rfl
@[simp] theorem State.load_boff (st : Status) (d : Data) : (s.load st d).boff = s.boff := rfl
@[simp] theorem State.load_pad (st : Status) (d : Data) : (s.load st d).pad = s.pad := rfl
@[simp] theorem State.load_last (st : Status) (d : Data) : (s.load st d).last = s.last := rfl
@[simp] theorem State.load_rsp (st : Status) (d : Data) : (s.load st d).rsp = some ⟨st, d⟩ := rfl
@[simp] theorem State.load_chIn (st : Status) (d : Data) : (s.load st d).chIn = s.chIn := rfl
@[simp] theorem State.load_chOut (st : Status) (d : Data) : (s.load st d).chOut = s.chOut := rfl
@[simp] theorem State.load_rst (st : Status) (d : Data) : (s.load st d).rst = s.rst := rfl
@[simp] theorem State.load_cmd (st : Status) (d : Data) : (s.load st d).cmd = s.cmd := rfl
@[simp] theorem State.load_host (st : Status) (d : Data) : (s.load st d).host = s.host := rfl
@[simp] theorem State.load_chan (st : Status) (d : Data) : (s.load st d).chan = s.chan := rfl
@[simp] theorem State.load_accesses (st : Status) (d : Data) : (s.load st d).accesses = s.accesses := rfl
@[simp] theorem State.load_shown (st : Status) (d : Data) : (s.load st d).shown = s.shown := rfl
@[simp] theorem State.load_taken (st : Status) (d : Data) : (s.load st d).taken = s.taken := rfl
@[simp] theorem State.load_draws (st : Status) (d : Data) : (s.load st d).draws = s.draws := rfl

/-! ### `popMoved` (R41) -/

@[simp] theorem State.popMoved_lc (m : Bool) : (s.popMoved m).lc = s.lc := by unfold State.popMoved; split <;> rfl
@[simp] theorem State.popMoved_mode (m : Bool) :
    (s.popMoved m).mode = s.mode := by unfold State.popMoved; split <;> rfl
@[simp] theorem State.popMoved_acc (m : Bool) : (s.popMoved m).acc = s.acc := by unfold State.popMoved; split <;> rfl
@[simp] theorem State.popMoved_boff (m : Bool) :
    (s.popMoved m).boff = s.boff := by unfold State.popMoved; split <;> rfl
@[simp] theorem State.popMoved_pad (m : Bool) : (s.popMoved m).pad = s.pad := by unfold State.popMoved; split <;> rfl
@[simp] theorem State.popMoved_last (m : Bool) :
    (s.popMoved m).last = s.last := by unfold State.popMoved; split <;> rfl
@[simp] theorem State.popMoved_rsp (m : Bool) : (s.popMoved m).rsp = s.rsp := by unfold State.popMoved; split <;> rfl
@[simp] theorem State.popMoved_chIn (m : Bool) :
    (s.popMoved m).chIn = if m then s.chIn.tail else s.chIn := by unfold State.popMoved; split <;> rfl
@[simp] theorem State.popMoved_chOut (m : Bool) :
    (s.popMoved m).chOut = s.chOut := by unfold State.popMoved; split <;> rfl
@[simp] theorem State.popMoved_rst (m : Bool) : (s.popMoved m).rst = s.rst := by unfold State.popMoved; split <;> rfl
@[simp] theorem State.popMoved_cmd (m : Bool) : (s.popMoved m).cmd = s.cmd := by unfold State.popMoved; split <;> rfl
@[simp] theorem State.popMoved_host (m : Bool) :
    (s.popMoved m).host = s.host := by unfold State.popMoved; split <;> rfl
@[simp] theorem State.popMoved_chan (m : Bool) :
    (s.popMoved m).chan = s.chan := by unfold State.popMoved; split <;> rfl
@[simp] theorem State.popMoved_accesses (m : Bool) :
    (s.popMoved m).accesses = s.accesses := by unfold State.popMoved; split <;> rfl
@[simp] theorem State.popMoved_shown (m : Bool) :
    (s.popMoved m).shown = s.shown := by unfold State.popMoved; split <;> rfl
@[simp] theorem State.popMoved_taken (m : Bool) :
    (s.popMoved m).taken = s.taken := by unfold State.popMoved; split <;> rfl
@[simp] theorem State.popMoved_draws (m : Bool) :
    (s.popMoved m).draws = s.draws := by unfold State.popMoved; split <;> rfl

/-! ### `pushMoved` (R41) -/

@[simp] theorem State.pushMoved_lc (m : Bool) (b : Byte) :
    (s.pushMoved m b).lc = s.lc := by unfold State.pushMoved; split <;> rfl
@[simp] theorem State.pushMoved_mode (m : Bool) (b : Byte) :
    (s.pushMoved m b).mode = s.mode := by unfold State.pushMoved; split <;> rfl
@[simp] theorem State.pushMoved_acc (m : Bool) (b : Byte) :
    (s.pushMoved m b).acc = s.acc := by unfold State.pushMoved; split <;> rfl
@[simp] theorem State.pushMoved_boff (m : Bool) (b : Byte) :
    (s.pushMoved m b).boff = s.boff := by unfold State.pushMoved; split <;> rfl
@[simp] theorem State.pushMoved_pad (m : Bool) (b : Byte) :
    (s.pushMoved m b).pad = s.pad := by unfold State.pushMoved; split <;> rfl
@[simp] theorem State.pushMoved_last (m : Bool) (b : Byte) :
    (s.pushMoved m b).last = s.last := by unfold State.pushMoved; split <;> rfl
@[simp] theorem State.pushMoved_rsp (m : Bool) (b : Byte) :
    (s.pushMoved m b).rsp = s.rsp := by unfold State.pushMoved; split <;> rfl
@[simp] theorem State.pushMoved_chIn (m : Bool) (b : Byte) :
    (s.pushMoved m b).chIn = s.chIn := by unfold State.pushMoved; split <;> rfl
@[simp] theorem State.pushMoved_chOut (m : Bool) (b : Byte) :
    (s.pushMoved m b).chOut = if m then s.chOut ++ [b] else s.chOut := by unfold State.pushMoved; split <;> rfl
@[simp] theorem State.pushMoved_rst (m : Bool) (b : Byte) :
    (s.pushMoved m b).rst = s.rst := by unfold State.pushMoved; split <;> rfl
@[simp] theorem State.pushMoved_cmd (m : Bool) (b : Byte) :
    (s.pushMoved m b).cmd = s.cmd := by unfold State.pushMoved; split <;> rfl
@[simp] theorem State.pushMoved_host (m : Bool) (b : Byte) :
    (s.pushMoved m b).host = s.host := by unfold State.pushMoved; split <;> rfl
@[simp] theorem State.pushMoved_chan (m : Bool) (b : Byte) :
    (s.pushMoved m b).chan = s.chan := by unfold State.pushMoved; split <;> rfl
@[simp] theorem State.pushMoved_accesses (m : Bool) (b : Byte) :
    (s.pushMoved m b).accesses = s.accesses := by unfold State.pushMoved; split <;> rfl
@[simp] theorem State.pushMoved_shown (m : Bool) (b : Byte) :
    (s.pushMoved m b).shown = s.shown := by unfold State.pushMoved; split <;> rfl
@[simp] theorem State.pushMoved_taken (m : Bool) (b : Byte) :
    (s.pushMoved m b).taken = s.taken := by unfold State.pushMoved; split <;> rfl
@[simp] theorem State.pushMoved_draws (m : Bool) (b : Byte) :
    (s.pushMoved m b).draws = s.draws := by unfold State.pushMoved; split <;> rfl

/-! ### `idleRegs` (R29) -/

@[simp] theorem idleRegs_lc : (idleRegs s).lc = .idle := rfl
@[simp] theorem idleRegs_mode : (idleRegs s).mode = .read := rfl
@[simp] theorem idleRegs_acc : (idleRegs s).acc = 0 := rfl
@[simp] theorem idleRegs_boff : (idleRegs s).boff = 0 := rfl
@[simp] theorem idleRegs_pad : (idleRegs s).pad = 0 := rfl
@[simp] theorem idleRegs_last : (idleRegs s).last = false := rfl
@[simp] theorem idleRegs_rsp : (idleRegs s).rsp = s.rsp := rfl
@[simp] theorem idleRegs_chIn : (idleRegs s).chIn = s.chIn := rfl
@[simp] theorem idleRegs_chOut : (idleRegs s).chOut = s.chOut := rfl
@[simp] theorem idleRegs_rst : (idleRegs s).rst = s.rst := rfl
@[simp] theorem idleRegs_cmd : (idleRegs s).cmd = s.cmd := rfl
@[simp] theorem idleRegs_host : (idleRegs s).host = s.host := rfl
@[simp] theorem idleRegs_chan : (idleRegs s).chan = s.chan := rfl
@[simp] theorem idleRegs_accesses : (idleRegs s).accesses = s.accesses := rfl
@[simp] theorem idleRegs_shown : (idleRegs s).shown = s.shown := rfl
@[simp] theorem idleRegs_taken : (idleRegs s).taken = s.taken := rfl
@[simp] theorem idleRegs_draws : (idleRegs s).draws = s.draws := rfl

/-! ### `resetEdge` (R100) -/

@[simp] theorem resetEdge_lc : (resetEdge s).lc = .idle := rfl
@[simp] theorem resetEdge_mode : (resetEdge s).mode = .read := rfl
@[simp] theorem resetEdge_acc : (resetEdge s).acc = 0 := rfl
@[simp] theorem resetEdge_boff : (resetEdge s).boff = 0 := rfl
@[simp] theorem resetEdge_pad : (resetEdge s).pad = 0 := rfl
@[simp] theorem resetEdge_last : (resetEdge s).last = false := rfl
@[simp] theorem resetEdge_rsp : (resetEdge s).rsp = none := rfl
@[simp] theorem resetEdge_chIn : (resetEdge s).chIn = s.chIn := rfl
@[simp] theorem resetEdge_chOut : (resetEdge s).chOut = s.chOut := rfl
@[simp] theorem resetEdge_rst : (resetEdge s).rst = true := rfl
@[simp] theorem resetEdge_cmd : (resetEdge s).cmd = s.cmd := rfl
@[simp] theorem resetEdge_host : (resetEdge s).host = s.host := rfl
@[simp] theorem resetEdge_chan : (resetEdge s).chan = s.chan := rfl
@[simp] theorem resetEdge_accesses : (resetEdge s).accesses = s.accesses := rfl
@[simp] theorem resetEdge_shown : (resetEdge s).shown = s.shown := rfl
@[simp] theorem resetEdge_taken : (resetEdge s).taken = s.taken := rfl
@[simp] theorem resetEdge_draws : (resetEdge s).draws = s.draws := rfl

/-! ### `failedRegs` (R87) -/

@[simp] theorem failedRegs_lc : (failedRegs s).lc = .failed := rfl
@[simp] theorem failedRegs_mode : (failedRegs s).mode = s.mode := rfl
@[simp] theorem failedRegs_acc : (failedRegs s).acc = Config.freeAcc s.draws := rfl
@[simp] theorem failedRegs_boff : (failedRegs s).boff = Config.freeBoff s.draws := rfl
@[simp] theorem failedRegs_pad : (failedRegs s).pad = s.pad := rfl
@[simp] theorem failedRegs_last : (failedRegs s).last = Config.freeLast s.draws := rfl
@[simp] theorem failedRegs_rsp : (failedRegs s).rsp = s.rsp := rfl
@[simp] theorem failedRegs_chIn : (failedRegs s).chIn = s.chIn := rfl
@[simp] theorem failedRegs_chOut : (failedRegs s).chOut = s.chOut := rfl
@[simp] theorem failedRegs_rst : (failedRegs s).rst = s.rst := rfl
@[simp] theorem failedRegs_cmd : (failedRegs s).cmd = s.cmd := rfl
@[simp] theorem failedRegs_host : (failedRegs s).host = s.host := rfl
@[simp] theorem failedRegs_chan : (failedRegs s).chan = s.chan := rfl
@[simp] theorem failedRegs_accesses : (failedRegs s).accesses = s.accesses := rfl
@[simp] theorem failedRegs_shown : (failedRegs s).shown = s.shown := rfl
@[simp] theorem failedRegs_taken : (failedRegs s).taken = s.taken := rfl
@[simp] theorem failedRegs_draws : (failedRegs s).draws = s.draws + 1 := rfl

/-! ### `loadAcc` (R74) -/

@[simp] theorem loadAcc_lc (r : Byte) : (loadAcc r s).lc = s.lc := rfl
@[simp] theorem loadAcc_mode (r : Byte) : (loadAcc r s).mode = s.mode := rfl
@[simp] theorem loadAcc_acc (r : Byte) : (loadAcc r s).acc = r := rfl
@[simp] theorem loadAcc_boff (r : Byte) : (loadAcc r s).boff = 8 := rfl
@[simp] theorem loadAcc_pad (r : Byte) : (loadAcc r s).pad = s.pad := rfl
@[simp] theorem loadAcc_last (r : Byte) : (loadAcc r s).last = s.last := rfl
@[simp] theorem loadAcc_rsp (r : Byte) : (loadAcc r s).rsp = s.rsp := rfl
@[simp] theorem loadAcc_chIn (r : Byte) : (loadAcc r s).chIn = s.chIn := rfl
@[simp] theorem loadAcc_chOut (r : Byte) : (loadAcc r s).chOut = s.chOut := rfl
@[simp] theorem loadAcc_rst (r : Byte) : (loadAcc r s).rst = s.rst := rfl
@[simp] theorem loadAcc_cmd (r : Byte) : (loadAcc r s).cmd = s.cmd := rfl
@[simp] theorem loadAcc_host (r : Byte) : (loadAcc r s).host = s.host := rfl
@[simp] theorem loadAcc_chan (r : Byte) : (loadAcc r s).chan = s.chan := rfl
@[simp] theorem loadAcc_accesses (r : Byte) : (loadAcc r s).accesses = s.accesses := rfl
@[simp] theorem loadAcc_shown (r : Byte) : (loadAcc r s).shown = s.shown := rfl
@[simp] theorem loadAcc_taken (r : Byte) : (loadAcc r s).taken = s.taken := rfl
@[simp] theorem loadAcc_draws (r : Byte) : (loadAcc r s).draws = s.draws := rfl

/-! ### `holdByte` (R76) -/

@[simp] theorem holdByte_lc (r : Byte) : (holdByte r s).lc = s.lc := rfl
@[simp] theorem holdByte_mode (r : Byte) : (holdByte r s).mode = s.mode := rfl
@[simp] theorem holdByte_acc (r : Byte) : (holdByte r s).acc = r := rfl
@[simp] theorem holdByte_boff (r : Byte) : (holdByte r s).boff = 0 := rfl
@[simp] theorem holdByte_pad (r : Byte) : (holdByte r s).pad = s.pad := rfl
@[simp] theorem holdByte_last (r : Byte) : (holdByte r s).last = s.last := rfl
@[simp] theorem holdByte_rsp (r : Byte) : (holdByte r s).rsp = s.rsp := rfl
@[simp] theorem holdByte_chIn (r : Byte) : (holdByte r s).chIn = s.chIn := rfl
@[simp] theorem holdByte_chOut (r : Byte) : (holdByte r s).chOut = s.chOut := rfl
@[simp] theorem holdByte_rst (r : Byte) : (holdByte r s).rst = s.rst := rfl
@[simp] theorem holdByte_cmd (r : Byte) : (holdByte r s).cmd = s.cmd := rfl
@[simp] theorem holdByte_host (r : Byte) : (holdByte r s).host = s.host := rfl
@[simp] theorem holdByte_chan (r : Byte) : (holdByte r s).chan = s.chan := rfl
@[simp] theorem holdByte_accesses (r : Byte) : (holdByte r s).accesses = s.accesses := rfl
@[simp] theorem holdByte_shown (r : Byte) : (holdByte r s).shown = s.shown := rfl
@[simp] theorem holdByte_taken (r : Byte) : (holdByte r s).taken = s.taken := rfl
@[simp] theorem holdByte_draws (r : Byte) : (holdByte r s).draws = s.draws := rfl

/-! ### `emptyAcc` (R68) -/

@[simp] theorem emptyAcc_lc : (emptyAcc s).lc = s.lc := rfl
@[simp] theorem emptyAcc_mode : (emptyAcc s).mode = s.mode := rfl
@[simp] theorem emptyAcc_acc : (emptyAcc s).acc = 0 := rfl
@[simp] theorem emptyAcc_boff : (emptyAcc s).boff = 0 := rfl
@[simp] theorem emptyAcc_pad : (emptyAcc s).pad = s.pad := rfl
@[simp] theorem emptyAcc_last : (emptyAcc s).last = s.last := rfl
@[simp] theorem emptyAcc_rsp : (emptyAcc s).rsp = s.rsp := rfl
@[simp] theorem emptyAcc_chIn : (emptyAcc s).chIn = s.chIn := rfl
@[simp] theorem emptyAcc_chOut : (emptyAcc s).chOut = s.chOut := rfl
@[simp] theorem emptyAcc_rst : (emptyAcc s).rst = s.rst := rfl
@[simp] theorem emptyAcc_cmd : (emptyAcc s).cmd = s.cmd := rfl
@[simp] theorem emptyAcc_host : (emptyAcc s).host = s.host := rfl
@[simp] theorem emptyAcc_chan : (emptyAcc s).chan = s.chan := rfl
@[simp] theorem emptyAcc_accesses : (emptyAcc s).accesses = s.accesses := rfl
@[simp] theorem emptyAcc_shown : (emptyAcc s).shown = s.shown := rfl
@[simp] theorem emptyAcc_taken : (emptyAcc s).taken = s.taken := rfl
@[simp] theorem emptyAcc_draws : (emptyAcc s).draws = s.draws := rfl

/-! ### `openSession` (R65) -/

@[simp] theorem openSession_lc (m : Mode) (p : BitVec 3) : (openSession m p s).lc = .opened := rfl
@[simp] theorem openSession_mode (m : Mode) (p : BitVec 3) : (openSession m p s).mode = m := rfl
@[simp] theorem openSession_acc (m : Mode) (p : BitVec 3) : (openSession m p s).acc = 0 := rfl
@[simp] theorem openSession_boff (m : Mode) (p : BitVec 3) : (openSession m p s).boff = 0 := rfl
@[simp] theorem openSession_pad (m : Mode) (p : BitVec 3) : (openSession m p s).pad = p := rfl
@[simp] theorem openSession_last (m : Mode) (p : BitVec 3) : (openSession m p s).last = false := rfl
@[simp] theorem openSession_rsp (m : Mode) (p : BitVec 3) : (openSession m p s).rsp = s.rsp := rfl
@[simp] theorem openSession_chIn (m : Mode) (p : BitVec 3) : (openSession m p s).chIn = s.chIn := rfl
@[simp] theorem openSession_chOut (m : Mode) (p : BitVec 3) : (openSession m p s).chOut = s.chOut := rfl
@[simp] theorem openSession_rst (m : Mode) (p : BitVec 3) : (openSession m p s).rst = s.rst := rfl
@[simp] theorem openSession_cmd (m : Mode) (p : BitVec 3) : (openSession m p s).cmd = s.cmd := rfl
@[simp] theorem openSession_host (m : Mode) (p : BitVec 3) : (openSession m p s).host = s.host := rfl
@[simp] theorem openSession_chan (m : Mode) (p : BitVec 3) : (openSession m p s).chan = s.chan := rfl
@[simp] theorem openSession_accesses (m : Mode) (p : BitVec 3) : (openSession m p s).accesses = s.accesses := rfl
@[simp] theorem openSession_shown (m : Mode) (p : BitVec 3) : (openSession m p s).shown = s.shown := rfl
@[simp] theorem openSession_taken (m : Mode) (p : BitVec 3) : (openSession m p s).taken = s.taken := rfl
@[simp] theorem openSession_draws (m : Mode) (p : BitVec 3) : (openSession m p s).draws = s.draws := rfl

/-! ### `extract` (R72) -/

@[simp] theorem extract_lc : ((extract s).2).lc = s.lc := rfl
@[simp] theorem extract_mode : ((extract s).2).mode = s.mode := rfl
@[simp] theorem extract_acc : ((extract s).2).acc = s.acc &&& ~~~(0x01#8 <<< (s.boff.val - 1)) := rfl
@[simp] theorem extract_boff : ((extract s).2).boff = boffDown s.boff := rfl
@[simp] theorem extract_pad : ((extract s).2).pad = s.pad := rfl
@[simp] theorem extract_last : ((extract s).2).last = s.last := rfl
@[simp] theorem extract_rsp : ((extract s).2).rsp = s.rsp := rfl
@[simp] theorem extract_chIn : ((extract s).2).chIn = s.chIn := rfl
@[simp] theorem extract_chOut : ((extract s).2).chOut = s.chOut := rfl
@[simp] theorem extract_rst : ((extract s).2).rst = s.rst := rfl
@[simp] theorem extract_cmd : ((extract s).2).cmd = s.cmd := rfl
@[simp] theorem extract_host : ((extract s).2).host = s.host := rfl
@[simp] theorem extract_chan : ((extract s).2).chan = s.chan := rfl
@[simp] theorem extract_accesses : ((extract s).2).accesses = s.accesses := rfl
@[simp] theorem extract_shown : ((extract s).2).shown = s.shown := rfl
@[simp] theorem extract_taken : ((extract s).2).taken = s.taken := rfl
@[simp] theorem extract_draws : ((extract s).2).draws = s.draws := rfl

/-! ### `takeResponse` (R52) -/

@[simp] theorem takeResponse_lc : (takeResponse s).lc = s.lc := rfl
@[simp] theorem takeResponse_mode : (takeResponse s).mode = s.mode := rfl
@[simp] theorem takeResponse_acc : (takeResponse s).acc = s.acc := rfl
@[simp] theorem takeResponse_boff : (takeResponse s).boff = s.boff := rfl
@[simp] theorem takeResponse_pad : (takeResponse s).pad = s.pad := rfl
@[simp] theorem takeResponse_last : (takeResponse s).last = s.last := rfl
@[simp] theorem takeResponse_rsp : (takeResponse s).rsp = none := rfl
@[simp] theorem takeResponse_chIn : (takeResponse s).chIn = s.chIn := rfl
@[simp] theorem takeResponse_chOut : (takeResponse s).chOut = s.chOut := rfl
@[simp] theorem takeResponse_rst : (takeResponse s).rst = s.rst := rfl
@[simp] theorem takeResponse_cmd : (takeResponse s).cmd = s.cmd := rfl
@[simp] theorem takeResponse_host : (takeResponse s).host = s.host := rfl
@[simp] theorem takeResponse_chan : (takeResponse s).chan = s.chan := rfl
@[simp] theorem takeResponse_accesses : (takeResponse s).accesses = s.accesses := rfl
@[simp] theorem takeResponse_shown : (takeResponse s).shown = s.shown := rfl
@[simp] theorem takeResponse_taken : (takeResponse s).taken = s.taken ++ s.rsp.toList := rfl
@[simp] theorem takeResponse_draws : (takeResponse s).draws = s.draws := rfl

end Sys2Proof.Machine
end

