-- ==== Sys2Proof/Laws/Ops.lean ====
section
/-! SUPPORT. What each shared operation can do, said once: the channel primitives, the end of a command, the checks and the
one-bit read step. Later proofs cite these and do not unfold the operations. -/

namespace Sys2Proof.Machine

open Sys2Proof

variable {s t : State}

/-! ### Results -/

@[simp] theorem respond_eq (st : Status) (d : Data) (s : State) :
    respond st d s = .next (s.load st d) := rfl

@[simp] theorem bind_done {α β : Type} (a : α) (s : State) (k : α → State → Result β) :
    (Result.done a s).bind k = k a s := rfl

@[simp] theorem bind_failed {α β : Type} (s : State) (k : α → State → Result β) :
    (Result.failed s).bind k = .failed s := rfl

@[simp] theorem bind_abandoned {α β : Type} (s : State) (k : α → State → Result β) :
    (Result.abandoned s).bind k = .abandoned s := rfl

@[simp] theorem bind_silent {α β : Type} (k : α → State → Result β) :
    (Result.silent : Result α).bind k = .silent := rfl

@[simp] theorem finishWith_done {α : Type} (a : α) (s : State) (f : State → Out) (k : α → State → Out) :
    (Result.done a s).finishWith f k = k a s := rfl

@[simp] theorem finishWith_failed {α : Type} (s : State) (f : State → Out) (k : α → State → Out) :
    (Result.failed s).finishWith f k = f s := rfl

@[simp] theorem finishWith_abandoned {α : Type} (s : State) (f : State → Out) (k : α → State → Out) :
    (Result.abandoned s).finishWith f k = .next (resetEdge s) := rfl

@[simp] theorem finishWith_silent {α : Type} (f : State → Out) (k : α → State → Out) :
    (Result.silent : Result α).finishWith f k = .fault .channelSilent := rfl

@[simp] theorem finish_done {α : Type} (a : α) (s : State) (k : α → State → Out) :
    (Result.done a s).finish k = k a s := rfl

@[simp] theorem finish_failed {α : Type} (s : State) (k : α → State → Out) :
    (Result.failed s).finish k = .next ((failedRegs s).load .errIo 0) := rfl

@[simp] theorem finish_abandoned {α : Type} (s : State) (k : α → State → Out) :
    (Result.abandoned s).finish k = .next (resetEdge s) := rfl

@[simp] theorem finish_silent {α : Type} (k : α → State → Out) :
    (Result.silent : Result α).finish k = .fault .channelSilent := rfl

/-- How a command that ends in a next state came to its end. -/
theorem finishWith_next {α : Type} {r : Result α} {f : State → Out} {k : α → State → Out}
    (h : r.finishWith f k = .next t) :
    (∃ a u, r = .done a u ∧ k a u = .next t) ∨ (∃ u, r = .failed u ∧ f u = .next t) ∨
      ∃ u, r = .abandoned u ∧ t = resetEdge u := by
  cases r with
  | done a u => exact .inl ⟨a, u, rfl, h⟩
  | failed u => exact .inr (.inl ⟨u, rfl, h⟩)
  | abandoned u => exact .inr (.inr ⟨u, rfl, by simpa using h.symm⟩)
  | silent => simp at h

/-- The same where a failed access is `fail_io()` (R87). -/
theorem finish_next {α : Type} {r : Result α} {k : α → State → Out} (h : r.finish k = .next t) :
    (∃ a u, r = .done a u ∧ k a u = .next t) ∨
      (∃ u, r = .failed u ∧ t = (failedRegs u).load .errIo 0) ∨
      ∃ u, r = .abandoned u ∧ t = resetEdge u := by
  obtain h | ⟨u, hr, hf⟩ | h := finishWith_next h
  · exact .inl h
  · exact .inr (.inl ⟨u, hr, by simpa [failIo] using hf.symm⟩)
  · exact .inr (.inr h)

/-! ### Channel primitives (R38 to R41) -/

theorem chPop_ok_nil (ha : s.answer = .ok) (hi : s.chIn = []) : chPop s = .done .eos (s.access .pop) := by
  simp [chPop, ha, hi]

theorem chPop_ok_cons {b : Byte} {bs : List Byte} (ha : s.answer = .ok) (hi : s.chIn = b :: bs) :
    chPop s = .done (.byte b) ((s.access .pop).setIn bs) := by
  simp [chPop, ha, hi]

theorem chPop_err {m : Bool} (ha : s.answer = .err m) : chPop s = .failed ((s.access .pop).popMoved m) := by
  simp [chPop, ha]

@[simp] theorem RstEdge.moved_waiting : RstEdge.waiting.moved = false := rfl

@[simp] theorem RstEdge.moved_answered (failing moved : Bool) : (RstEdge.answered failing moved).moved = moved := rfl

theorem chPop_rst {e : RstEdge} (ha : s.answer = .rst e) :
    chPop s = .abandoned ((s.access .pop).popMoved e.moved) := by
  simp [chPop, ha]

theorem chPop_never (ha : s.answer = .never) : chPop s = .silent := by
  simp [chPop, ha]

theorem chProbe_ok (ha : s.answer = .ok) :
    chProbe s = .done (if s.chIn = [] then .empty else .more) (s.access .probe) := by
  simp [chProbe, ha]

theorem chProbe_err {m : Bool} (ha : s.answer = .err m) : chProbe s = .failed (s.access .probe) := by
  simp [chProbe, ha]

theorem chProbe_rst {e : RstEdge} (ha : s.answer = .rst e) : chProbe s = .abandoned (s.access .probe) := by
  simp [chProbe, ha]

theorem chProbe_never (ha : s.answer = .never) : chProbe s = .silent := by
  simp [chProbe, ha]

theorem chPush_ok {b : Byte} (ha : s.answer = .ok) :
    chPush b s = .done () ((s.access (.push b)).append b) := by
  simp [chPush, ha]

theorem chPush_err {b : Byte} {m : Bool} (ha : s.answer = .err m) :
    chPush b s = .failed ((s.access (.push b)).pushMoved m b) := by
  simp [chPush, ha]

theorem chPush_rst {b : Byte} {e : RstEdge} (ha : s.answer = .rst e) :
    chPush b s = .abandoned ((s.access (.push b)).pushMoved e.moved b) := by
  simp [chPush, ha]

theorem chPush_never {b : Byte} (ha : s.answer = .never) : chPush b s = .silent := by
  simp [chPush, ha]

/-- The answer of a state is one of the four. -/
theorem answer_cases (s : State) :
    s.answer = .ok ∨ (∃ m, s.answer = .err m) ∨ (∃ e, s.answer = .rst e) ∨ s.answer = .never := by
  cases s.answer <;> simp

theorem answer_ok_of_allOk (h : AllOk s) : s.answer = .ok := by
  unfold State.answer
  cases hc : s.chan with
  | nil => rfl
  | cons a as => exact h a (by simp [hc])

/-! ### The checks (R85) -/

theorem guarded_none {i : Instr} {body : State → Out} (h : check i s = none) : guarded i s body = body s := by
  simp [guarded, h]

theorem guarded_some {i : Instr} {body : State → Out} {st : Status} (h : check i s = some st) :
    guarded i s body = .next (s.load st 0) := by
  simp [guarded, h]

/-- A guarded command that answers a next state was refused by a check, or its body ran. -/
theorem guarded_next {i : Instr} {body : State → Out} (h : guarded i s body = .next t) :
    (∃ st, check i s = some st ∧ t = s.load st 0) ∨ (check i s = none ∧ body s = .next t) := by
  cases hc : check i s with
  | none => exact .inr ⟨rfl, by simpa [guarded, hc] using h⟩
  | some st => exact .inl ⟨st, rfl, by simpa [guarded, hc] using h.symm⟩

@[simp] theorem check_construct_idle {i : Instr} (hi : isConstruct i = true) : check i s = none ↔ s.lc = .idle := by
  cases i <;> simp_all [check, lifecycleError, modeError, operandError, needsMode, isConstruct, isClose] <;>
    cases s.lc <;> simp

theorem check_writeBit_none {sym : Byte} (h : check (.writeBit sym) s = none) :
    Writing s ∧ symLegal sym = true := by
  revert h
  simp only [check, lifecycleError, modeError, operandError, needsMode, isConstruct, isClose, Writing]
  cases s.lc <;> cases s.mode <;> simp

theorem check_writeBit {sym : Byte} (hw : Writing s) (hs : symLegal sym = true) : check (.writeBit sym) s = none := by
  simp [check, lifecycleError, modeError, operandError, needsMode, isConstruct, hw.1, hw.2, hs]

theorem check_readBit_none : check .readBit s = none ↔ Reading s := by
  simp only [check, lifecycleError, modeError, operandError, needsMode, isConstruct, isClose, Reading]
  cases s.lc <;> cases s.mode <;> simp

theorem check_readByte_none : check .readByte s = none ↔ Reading s := by
  simp only [check, lifecycleError, modeError, operandError, needsMode, isConstruct, isClose, Reading]
  cases s.lc <;> cases s.mode <;> simp

theorem check_readNbits_none {n : Nat} : check (.readNbits n) s = none ↔ Reading s ∧ n ≤ 64 := by
  simp only [check, lifecycleError, modeError, operandError, needsMode, isConstruct, isClose, Reading, nbitsLegal,
    Config.nMax]
  by_cases h : n ≤ 64 <;> cases s.lc <;> cases s.mode <;> simp [h]

theorem check_close_none : check .close s = none ↔ s.lc ≠ .idle := by
  simp only [check, lifecycleError, modeError, operandError, needsMode, isConstruct, isClose]
  cases s.lc <;> cases s.mode <;> simp

@[simp] theorem symLegal_bitSym (b : Bool) : symLegal (bitSym b) = true := by cases b <;> decide

@[simp] theorem symBit_bitSym (b : Bool) : symBit (bitSym b) = b := by cases b <;> decide

/-! ### The one-bit read step (R72 to R74) -/

theorem atEnd_iff : atEnd s = true ↔ s.last = true ∧ s.boff.val ≤ s.pad.toNat := by
  simp [atEnd]

/-- The state after a pop that found a byte: the byte is in ACC, the bytes after it still in the channel. -/
def popped (b : Byte) (bs : List Byte) (s : State) : State := loadAcc b ((s.access .pop).setIn bs)

/-- The state after a refill, before the bit is taken (R74). -/
def refilled (b : Byte) (bs : List Byte) (s : State) : State :=
  ((popped b bs s).access .probe).setLast (decide (bs = []))

@[simp] theorem answer_popped (b : Byte) (bs : List Byte) (s : State) :
    (popped b bs s).answer = s.chan.tail.headD .ok := rfl

theorem atEnd_refilled (b : Byte) (bs : List Byte) (s : State) : atEnd (refilled b bs s) = false := by
  have := s.pad.isLt
  simp [atEnd, refilled, popped]
  omega

theorem probeLoaded_popped {b : Byte} {bs : List Byte} (h : s.chan.tail.headD .ok = .ok) :
    probeLoaded (popped b bs s) = takeBit (refilled b bs s) := by
  have e : lastOfProbe (if (popped b bs s).chIn = [] then .empty else .more) = decide (bs = []) := by
    cases bs <;> simp [popped, lastOfProbe]
  have hr := atEnd_refilled b bs s
  unfold refilled at hr
  simp [probeLoaded, chProbe_ok ((answer_popped b bs s).trans h), e, hr, refilled]

/-- Everything a refill can do (R74). -/
theorem refill_cases (s : State) :
    (s.answer = .ok ∧ s.chIn = [] ∧ refill s = .done .eod ((s.access .pop).setLast true)) ∨
    (∃ b bs, s.answer = .ok ∧ s.chIn = b :: bs ∧ s.chan.tail.headD .ok = .ok ∧
      refill s = takeBit (refilled b bs s)) ∨
    (∃ b bs m, s.answer = .ok ∧ s.chIn = b :: bs ∧ s.chan.tail.headD .ok = .err m ∧
      refill s = .failed ((popped b bs s).access .probe)) ∨
    (∃ b bs e, s.answer = .ok ∧ s.chIn = b :: bs ∧ s.chan.tail.headD .ok = .rst e ∧
      refill s = .abandoned ((popped b bs s).access .probe)) ∨
    (∃ b bs, s.answer = .ok ∧ s.chIn = b :: bs ∧ s.chan.tail.headD .ok = .never ∧ refill s = .silent) ∨
    (∃ m, s.answer = .err m ∧ refill s = .failed ((s.access .pop).popMoved m)) ∨
    (∃ e, s.answer = .rst e ∧ refill s = .abandoned ((s.access .pop).popMoved e.moved)) ∨
    (s.answer = .never ∧ refill s = .silent) := by
  obtain ha | ⟨m, ha⟩ | ⟨m, ha⟩ | ha := answer_cases s
  · cases hi : s.chIn with
    | nil => exact .inl ⟨ha, rfl, by simp [refill, chPop_ok_nil ha hi]⟩
    | cons b bs =>
      have e : refill s = probeLoaded (popped b bs s) := by simp [refill, chPop_ok_cons ha hi, popped]
      obtain hq | ⟨m, hq⟩ | ⟨m, hq⟩ | hq := answer_cases (popped b bs s)
      · exact .inr (.inl ⟨b, bs, ha, rfl, hq, e.trans (probeLoaded_popped hq)⟩)
      · exact .inr (.inr (.inl ⟨b, bs, m, ha, rfl, hq, by simp [e, probeLoaded, chProbe_err hq]⟩))
      · exact .inr (.inr (.inr (.inl ⟨b, bs, m, ha, rfl, hq, by simp [e, probeLoaded, chProbe_rst hq]⟩)))
      · exact .inr (.inr (.inr (.inr (.inl ⟨b, bs, ha, rfl, hq, by simp [e, probeLoaded, chProbe_never hq]⟩))))
  · exact .inr (.inr (.inr (.inr (.inr (.inl ⟨m, ha, by simp [refill, chPop_err ha]⟩)))))
  · exact .inr (.inr (.inr (.inr (.inr (.inr (.inl ⟨m, ha, by simp [refill, chPop_rst ha]⟩))))))
  · exact .inr (.inr (.inr (.inr (.inr (.inr (.inr ⟨ha, by simp [refill, chPop_never ha]⟩))))))

/-- Everything the one-bit step can do, before a refill is looked into (R74). -/
theorem rb_cases (s : State) :
    (atEnd s = true ∧ rb s = .done .eod s) ∨
    (atEnd s = false ∧ s.boff.val ≠ 0 ∧ rb s = takeBit s) ∨
    (s.last = false ∧ s.boff.val = 0 ∧ rb s = refill s) := by
  by_cases he : atEnd s = true
  · exact .inl ⟨he, by simp [rb, he]⟩
  · by_cases hb : s.boff.val = 0
    · refine .inr (.inr ⟨?_, hb, by simp [rb, he, hb]⟩)
      cases hl : s.last with
      | false => rfl
      | true => exact absurd (atEnd_iff.2 ⟨hl, by omega⟩) he
    · exact .inr (.inl ⟨by simpa using he, hb, by simp [rb, he, hb]⟩)

end Sys2Proof.Machine
end

