-- ==== Sys2Proof/Laws/Exec.lean ====
section
/-! SUPPORT. exec, said once per command: a refused command only answers (R84), and a command that passes the checks is its
body (R64). -/

namespace Sys2Proof.Machine

open Sys2Proof

variable {s t : State}

/-- A refused command of any kind. -/
theorem exec_refused {i : Instr} {st : Status} (h : check i s = some st) : exec i s = .next (s.load st 0) := by
  cases i <;> exact guarded_some h

theorem exec_constructR (pad : BitVec 3) (h : s.lc = .idle) :
    exec (.constructR pad) s = .next ((openSession .read pad s).load .ok 0) :=
  guarded_none (i := .constructR pad) (body := constructBody .read pad) ((check_construct_idle rfl).2 h)

theorem exec_constructW (h : s.lc = .idle) :
    exec .constructW s = .next ((openSession .write 0 s).load .ok 0) :=
  guarded_none (i := .constructW) (body := constructBody .write 0) ((check_construct_idle rfl).2 h)

theorem exec_writeBit {sym : Byte} (h : Writing s) (hs : symLegal sym = true) :
    exec (.writeBit sym) s = writeBitBody (symBit sym) s :=
  guarded_none (check_writeBit h hs)

theorem exec_readBit (h : Reading s) : exec .readBit s = readBitBody s :=
  guarded_none (check_readBit_none.2 h)

theorem exec_readByte (h : Reading s) : exec .readByte s = readByteBody s :=
  guarded_none (check_readByte_none.2 h)

theorem exec_readNbits {n : Nat} (h : Reading s) (hn : n ≤ 64) : exec (.readNbits n) s = readNbitsBody n s :=
  guarded_none (check_readNbits_none.2 ⟨h, hn⟩)

theorem exec_close (h : s.lc ≠ .idle) : exec .close s = closeBody s :=
  guarded_none (check_close_none.2 h)

/-- The command passed its checks in `s`, and its body led to `t`. -/
def Ran (i : Instr) (s t : State) : Prop :=
  match i with
  | .constructR pad => s.lc = .idle ∧ t = (openSession .read pad s).load .ok 0
  | .constructW => s.lc = .idle ∧ t = (openSession .write 0 s).load .ok 0
  | .writeBit sym => Writing s ∧ symLegal sym = true ∧ writeBitBody (symBit sym) s = .next t
  | .readBit => Reading s ∧ readBitBody s = .next t
  | .readByte => Reading s ∧ readByteBody s = .next t
  | .readNbits n => Reading s ∧ n ≤ 64 ∧ readNbitsBody n s = .next t
  | .close => s.lc ≠ .idle ∧ closeBody s = .next t

/-- What a command that answers a next state did: it was refused, or its checks passed and its body ran. -/
theorem exec_next {i : Instr} (h : exec i s = .next t) :
    (∃ st, check i s = some st ∧ t = s.load st 0) ∨ (check i s = none ∧ Ran i s t) := by
  cases i with
  | constructR pad =>
    obtain h | ⟨hc, h⟩ := guarded_next h
    · exact .inl h
    · exact .inr ⟨hc, (check_construct_idle rfl).1 hc, by simpa [constructBody] using h.symm⟩
  | constructW =>
    obtain h | ⟨hc, h⟩ := guarded_next h
    · exact .inl h
    · exact .inr ⟨hc, (check_construct_idle rfl).1 hc, by simpa [constructBody] using h.symm⟩
  | writeBit sym =>
    obtain h | ⟨hc, h⟩ := guarded_next h
    · exact .inl h
    · exact .inr ⟨hc, (check_writeBit_none hc).1, (check_writeBit_none hc).2, h⟩
  | readBit =>
    obtain h | ⟨hc, h⟩ := guarded_next h
    · exact .inl h
    · exact .inr ⟨hc, check_readBit_none.1 hc, h⟩
  | readByte =>
    obtain h | ⟨hc, h⟩ := guarded_next h
    · exact .inl h
    · exact .inr ⟨hc, check_readByte_none.1 hc, h⟩
  | readNbits n =>
    obtain h | ⟨hc, h⟩ := guarded_next h
    · exact .inl h
    · exact .inr ⟨hc, (check_readNbits_none.1 hc).1, (check_readNbits_none.1 hc).2, h⟩
  | close =>
    obtain h | ⟨hc, h⟩ := guarded_next h
    · exact .inl h
    · exact .inr ⟨hc, check_close_none.1 hc, h⟩

/-! ### The bodies -/

/-- Everything the body of WRITE_BIT can do (R68, R87, R101). -/
theorem writeBitBody_cases (b : Bool) (s : State) :
    (∃ k : Fin 9, k.val = s.boff.val + 1 ∧ s.boff.val ≤ 6 ∧
      writeBitBody b s = .next ({ s with acc := placeBit b s.acc, boff := k }.load .ok 0)) ∨
    (s.boff.val = 7 ∧ s.answer = .ok ∧ writeBitBody b s =
      .next ((emptyAcc ((({ s with acc := placeBit b s.acc, boff := 8 } : State).access
        (.push (placeBit b s.acc))).append (placeBit b s.acc))).load .ok 0)) ∨
    (∃ m, s.boff.val = 7 ∧ s.answer = .err m ∧ writeBitBody b s = .next ((failedRegs
      ((({ s with acc := placeBit b s.acc, boff := 8 } : State).access (.push (placeBit b s.acc))).pushMoved m
        (placeBit b s.acc))).load .errIo 0)) ∨
    (∃ e, s.boff.val = 7 ∧ s.answer = .rst e ∧ writeBitBody b s = .next (resetEdge
      ((({ s with acc := placeBit b s.acc, boff := 8 } : State).access (.push (placeBit b s.acc))).pushMoved e.moved
        (placeBit b s.acc)))) ∨
    (s.boff.val = 7 ∧ s.answer = .never ∧ writeBitBody b s = .fault .channelSilent) ∨
    (s.boff.val = 8 ∧ writeBitBody b s = .fault .boffRange) := by
  have hk := s.boff.isLt
  by_cases h8 : s.boff.val = 8
  · exact .inr (.inr (.inr (.inr (.inr ⟨h8, by simp [writeBitBody, boffUp, h8]⟩))))
  · by_cases h7 : s.boff.val = 7
    · have hu : boffUp s.boff = some 8 := by simp [boffUp, h7]
      have ha : ({ s with acc := placeBit b s.acc, boff := 8 } : State).answer = s.answer := rfl
      obtain h | ⟨m, h⟩ | ⟨m, h⟩ | h := answer_cases s
      · refine .inr (.inl ⟨h7, h, ?_⟩)
        simp [writeBitBody, hu, chPush_ok (ha.trans h)]
      · exact .inr (.inr (.inl ⟨m, h7, h, by simp [writeBitBody, hu, chPush_err (ha.trans h)]⟩))
      · exact .inr (.inr (.inr (.inl ⟨m, h7, h, by simp [writeBitBody, hu, chPush_rst (ha.trans h)]⟩)))
      · exact .inr (.inr (.inr (.inr (.inl ⟨h7, h, by simp [writeBitBody, hu, chPush_never (ha.trans h)]⟩))))
    · refine .inl ⟨⟨s.boff.val + 1, by omega⟩, rfl, by omega, ?_⟩
      have hu : boffUp s.boff = some ⟨s.boff.val + 1, by omega⟩ := by
        unfold boffUp; rw [dif_pos (by omega)]
      simp [writeBitBody, hu]
      omega

/-- The state of READ_BYTE after a pop that found a byte. -/
def held (b : Byte) (bs : List Byte) (s : State) : State := holdByte b ((s.access .pop).setIn bs)

/-- The state READ_BYTE leaves with the byte it answers. -/
def heldProbed (b : Byte) (bs : List Byte) (s : State) : State :=
  ((held b bs s).access .probe).setLast (decide (bs = []))

@[simp] theorem answer_held (b : Byte) (bs : List Byte) (s : State) :
    (held b bs s).answer = s.chan.tail.headD .ok := rfl

/-- Everything the body of READ_BYTE can do (R76, R87, R101). -/
theorem readByteBody_cases (s : State) :
    (s.last = true ∧ readByteBody s = .next (s.load .eod 0)) ∨
    (s.last = false ∧
      ((s.answer = .ok ∧ s.chIn = [] ∧ readByteBody s = .next (((s.access .pop).setLast true).load .eod 0)) ∨
        (∃ b bs, s.answer = .ok ∧ s.chIn = b :: bs ∧ s.chan.tail.headD .ok = .ok ∧
          readByteBody s = .next ((heldProbed b bs s).load .ok (byteData b))) ∨
        (∃ b bs m, s.answer = .ok ∧ s.chIn = b :: bs ∧ s.chan.tail.headD .ok = .err m ∧
          readByteBody s = .next ((failedRegs ((held b bs s).access .probe)).load .errIo 0)) ∨
        (∃ b bs e, s.answer = .ok ∧ s.chIn = b :: bs ∧ s.chan.tail.headD .ok = .rst e ∧
          readByteBody s = .next (resetEdge ((held b bs s).access .probe))) ∨
        (∃ b bs, s.answer = .ok ∧ s.chIn = b :: bs ∧ s.chan.tail.headD .ok = .never ∧
          readByteBody s = .fault .channelSilent) ∨
        (∃ m, s.answer = .err m ∧
          readByteBody s = .next ((failedRegs ((s.access .pop).popMoved m)).load .errIo 0)) ∨
        (∃ e, s.answer = .rst e ∧ readByteBody s = .next (resetEdge ((s.access .pop).popMoved e.moved))) ∨
        (s.answer = .never ∧ readByteBody s = .fault .channelSilent))) := by
  cases hl : s.last with
  | true => exact .inl ⟨rfl, by simp [readByteBody, hl]⟩
  | false =>
    refine .inr ⟨rfl, ?_⟩
    obtain ha | ⟨m, ha⟩ | ⟨m, ha⟩ | ha := answer_cases s
    · cases hi : s.chIn with
      | nil => exact .inl ⟨ha, rfl, by simp [readByteBody, hl, chPop_ok_nil ha hi]⟩
      | cons b bs =>
        have e : readByteBody s = (chProbe (held b bs s)).finish fun q u =>
            respond .ok (byteData b) (u.setLast (lastOfProbe q)) := by
          simp [readByteBody, hl, chPop_ok_cons ha hi, held]
        have el : lastOfProbe (if (held b bs s).chIn = [] then .empty else .more) = decide (bs = []) := by
          cases bs <;> simp [held, lastOfProbe]
        obtain hq | ⟨m, hq⟩ | ⟨m, hq⟩ | hq := answer_cases (held b bs s)
        · exact .inr (.inl ⟨b, bs, ha, rfl, hq, by simp [e, chProbe_ok hq, el, heldProbed]⟩)
        · exact .inr (.inr (.inl ⟨b, bs, m, ha, rfl, hq, by simp [e, chProbe_err hq]⟩))
        · exact .inr (.inr (.inr (.inl ⟨b, bs, m, ha, rfl, hq, by simp [e, chProbe_rst hq]⟩)))
        · exact .inr (.inr (.inr (.inr (.inl ⟨b, bs, ha, rfl, hq, by simp [e, chProbe_never hq]⟩))))
    · exact .inr (.inr (.inr (.inr (.inr (.inl ⟨m, ha, by simp [readByteBody, hl, chPop_err ha]⟩)))))
    · exact .inr (.inr (.inr (.inr (.inr (.inr (.inl ⟨m, ha, by simp [readByteBody, hl, chPop_rst ha]⟩))))))
    · exact .inr (.inr (.inr (.inr (.inr (.inr (.inr ⟨ha, by simp [readByteBody, hl, chPop_never ha]⟩))))))

/-- Everything the body of CLOSE can do (R80, R101). -/
theorem closeBody_cases (s : State) :
    (s.lc = .failed ∧ closeBody s = .next ((idleRegs s).load .errFailed 0)) ∨
    (s.lc ≠ .failed ∧ (s.mode = .write → s.boff.val = 0) ∧ closeBody s = .next ((idleRegs s).load .ok 0)) ∨
    (s.lc ≠ .failed ∧ s.mode = .write ∧ s.boff.val ≠ 0 ∧
      ((s.answer = .ok ∧ closeBody s = .next
          ((idleRegs ((s.access (.push (finalByte s))).append (finalByte s))).load .ok
            (countData (padCount s.boff)))) ∨
        (∃ m, s.answer = .err m ∧ closeBody s = .next
          ((idleRegs ((s.access (.push (finalByte s))).pushMoved m (finalByte s))).load .errIo 0)) ∨
        (∃ e, s.answer = .rst e ∧ closeBody s = .next
          (resetEdge ((s.access (.push (finalByte s))).pushMoved e.moved (finalByte s)))) ∨
        (s.answer = .never ∧ closeBody s = .fault .channelSilent))) := by
  by_cases hf : s.lc = .failed
  · exact .inl ⟨hf, by simp [closeBody, hf, release]⟩
  · have hb : closeBody s = match s.mode with | .write => closeWrite s | .read => release .ok 0 s := by
      unfold closeBody
      cases hl : s.lc <;> cases s.mode <;> simp_all
    by_cases hm : s.mode = .write
    · by_cases h0 : s.boff.val = 0
      · exact .inr (.inl ⟨hf, fun _ => h0, by simp [hb, hm, closeWrite, h0, release]⟩)
      · refine .inr (.inr ⟨hf, hm, h0, ?_⟩)
        have h0' : s.boff ≠ 0 := fun h => h0 (by simp [h])
        obtain h | ⟨m, h⟩ | ⟨m, h⟩ | h := answer_cases s
        · exact .inl ⟨h, by simp [hb, hm, closeWrite, h0', chPush_ok h, release]⟩
        · exact .inr (.inl ⟨m, h, by simp [hb, hm, closeWrite, h0', chPush_err h, release]⟩)
        · exact .inr (.inr (.inl ⟨m, h, by simp [hb, hm, closeWrite, h0', chPush_rst h]⟩))
        · exact .inr (.inr (.inr ⟨h, by simp [hb, hm, closeWrite, h0', chPush_never h]⟩))
    · have hr : s.mode = .read := by cases h : s.mode <;> simp_all
      exact .inr (.inl ⟨hf, fun h => absurd h hm, by simp [hb, hr, release]⟩)

end Sys2Proof.Machine
end

