-- ==== Sys2Proof/Laws/PerInstr.lean ====
section
/-! SUPPORT. Statements made per command, one lemma per constructor: each command's word lies in a row of the opcode map under
the command's own mnemonic (30_encoding.md R56). -/

namespace Sys2Proof.Laws.EncodesInItsRow

open Sys2Proof

/-- The word of a well-formed command selects a row that bears its mnemonic. -/
def Statement (i : Instr) : Prop :=
  i.wf = true → ∃ r ∈ opcodeTable, r.mnemonic = i.mnemonic ∧ r.selects (encode i) = true

theorem constructR (pad : BitVec 3) : Statement (.constructR pad) := by
  intro _
  refine ⟨⟨"CONSTRUCT", 0x1000, 0xF8FF⟩, by decide, rfl, ?_⟩
  revert pad; decide

theorem constructW : Statement .constructW :=
  fun _ => ⟨⟨"CONSTRUCT", 0x1800, 0xFFFF⟩, by decide, rfl, by decide⟩

theorem writeBit (sym : Byte) : Statement (.writeBit sym) := by
  intro _
  refine ⟨⟨"WRITE_BIT", 0x2000, 0xFF00⟩, by decide, rfl, ?_⟩
  revert sym; decide

theorem readBit : Statement .readBit :=
  fun _ => ⟨⟨"READ_BIT", 0x3000, 0xFFFF⟩, by decide, rfl, by decide⟩

theorem readByte : Statement .readByte :=
  fun _ => ⟨⟨"READ_BYTE", 0x4000, 0xFFFF⟩, by decide, rfl, by decide⟩

theorem readNbits (n : Nat) : Statement (.readNbits n) := by
  intro h
  have hn : n < 128 := by simpa [Instr.wf] using h
  refine ⟨⟨"READ_NBITS", 0x5000, 0xFF80⟩, by decide, rfl, ?_⟩
  have key : ∀ n < 128, (OpcodeRow.mk "READ_NBITS" 0x5000 0xFF80).selects (encode (.readNbits n)) = true := by decide
  exact key n hn

theorem close : Statement .close :=
  fun _ => ⟨⟨"CLOSE", 0x6000, 0xFFFF⟩, by decide, rfl, by decide⟩

end Sys2Proof.Laws.EncodesInItsRow
end

