-- ==== Sys2Proof/Laws/Ports.lean ====
section
/-! SUPPORT. The channel ports by the answer to the access in flight (20_memory.md R34, R35), and what the block drives. -/

namespace Sys2Proof.Machine

open Sys2Proof

variable {s : State}

theorem rdPort_ok (h : s.answer = .ok) : rdPort s = rdHead s.chIn := by simp [rdPort, h]

theorem rdPort_err {m : Bool} (h : s.answer = .err m) : rdPort s = rdFailing s.chIn := by
  simp [rdPort, h]

theorem rdPort_rst_waiting (h : s.answer = .rst .waiting) : rdPort s = rdWaiting := by simp [rdPort, h]

/-- A port that answers at the edge of a reset shows the same whether or not the transfer took place (R101). -/
theorem rdPort_rst_answered {f m : Bool} (h : s.answer = .rst (.answered f m)) :
    rdPort s = if f then rdFailing s.chIn else rdHead s.chIn := by
  cases f <;> simp [rdPort, h]

theorem rdPort_never (h : s.answer = .never) : rdPort s = rdWaiting := by simp [rdPort, h]

theorem wrPort_ok (h : s.answer = .ok) : wrPort s = ⟨true, false⟩ := by simp [wrPort, h]

theorem wrPort_err {m : Bool} (h : s.answer = .err m) : wrPort s = ⟨true, true⟩ := by simp [wrPort, h]

theorem wrPort_rst_waiting (h : s.answer = .rst .waiting) : wrPort s = ⟨false, false⟩ := by simp [wrPort, h]

/-- A port that answers at the edge of a reset shows the same whether or not the transfer took place (R101). -/
theorem wrPort_rst_answered {f m : Bool} (h : s.answer = .rst (.answered f m)) : wrPort s = ⟨true, f⟩ := by
  simp [wrPort, h]

theorem wrPort_never (h : s.answer = .never) : wrPort s = ⟨false, false⟩ := by simp [wrPort, h]

theorem rstAtAccess_iff : rstAtAccess s = true ↔ ∃ e, s.answer = .rst e := by
  cases h : s.answer <;> simp [rstAtAccess, h]

@[simp] theorem drive_none (p : RdPort) : drive none p = ⟨false, false, none⟩ := rfl

@[simp] theorem drive_pop (p : RdPort) : drive (some .pop) p = ⟨p.valid && !p.eos && !p.err, false, none⟩ := rfl

@[simp] theorem drive_probe (p : RdPort) : drive (some .probe) p = ⟨false, false, none⟩ := rfl

@[simp] theorem drive_push (b : Byte) (p : RdPort) : drive (some (.push b)) p = ⟨false, true, some b⟩ := rfl

/-- The access a cycle is of, and the `status_o` it shows. -/
def PortCycle.key (c : PortCycle) : Access × BitVec 24 := (c.access, c.out.statusO)

@[simp] theorem portCycle_key (a : Access) (w : BitVec 24) (s : State) : (portCycle a w s).key = (a, w) := rfl

/-- A command in progress accepts no word (R51). -/
@[simp] theorem portCycle_cmdReady (a : Access) (w : BitVec 24) (s : State) : (portCycle a w s).out.cmdReady = false := rfl

@[simp] theorem portCycle_rst (a : Access) (w : BitVec 24) (s : State) : (portCycle a w s).rst = rstAtAccess s := rfl

@[simp] theorem portTrace_nil (s : State) : portTrace [] s = [] := rfl

@[simp] theorem portTrace_cons (p : Access × BitVec 24) (rest : List (Access × BitVec 24)) (s : State) :
    portTrace (p :: rest) s = portCycle p.1 p.2 s :: portTrace rest (afterAccess p.1 s) := rfl

/-- A trace has one cycle for each access, in order, and shows the `status_o` on record. -/
theorem portTrace_keys (l : List (Access × BitVec 24)) (s : State) : (portTrace l s).map PortCycle.key = l := by
  induction l generalizing s with
  | nil => rfl
  | cons p l ih => simp [ih]

theorem commandAccesses_next {i : Instr} {s t : State} (h : exec i s = .next t) :
    commandAccesses i s = recordedSince s t := by simp [commandAccesses, h]

end Sys2Proof.Machine
end

