-- ==== Sys2Proof/Laws/Read.lean ====
section
/-! SUPPORT. What the read steps can do: the frame of the one-bit step and of the READ_NBITS loop, and what they keep. -/

namespace Sys2Proof.Machine

open Sys2Proof

variable {s t u : State}

/-! ### Results by the states they carry -/

/-- The state a result carries, if it carries one, has the property. -/
def Result.on {α : Type} (r : Result α) (P : State → Prop) : Prop :=
  match r with
  | .done _ s => P s
  | .failed s => P s
  | .abandoned s => P s
  | .silent => True

/-- The state of a result that is done has the property. -/
def Result.onDone {α : Type} (r : Result α) (P : α → State → Prop) : Prop :=
  match r with
  | .done a s => P a s
  | .failed _ => True
  | .abandoned _ => True
  | .silent => True

theorem Result.on_mono {α : Type} {r : Result α} {P Q : State → Prop} (h : ∀ u, P u → Q u) (hr : r.on P) : r.on Q := by
  cases r with
  | done a u => exact h u hr
  | failed u => exact h u hr
  | abandoned u => exact h u hr
  | silent => trivial

theorem Result.on_bind {α β : Type} {r : Result α} {k : α → State → Result β} {P : State → Prop}
    (hr : r.on P) (hk : ∀ a u, P u → (k a u).on P) : (r.bind k).on P := by
  cases r with
  | done a u => exact hk a u hr
  | failed u => exact hr
  | abandoned u => exact hr
  | silent => trivial

/-! ### The frame of reading -/

/-- What reading from `s` on can have changed in `t`: ACC, BOFF, LAST, bytes at the head of the read channel, and the
answers used up. -/
structure ReadMove (s t : State) : Prop where
  lc : t.lc = s.lc
  mode : t.mode = s.mode
  pad : t.pad = s.pad
  rsp : t.rsp = s.rsp
  chOut : t.chOut = s.chOut
  rst : t.rst = s.rst
  cmd : t.cmd = s.cmd
  host : t.host = s.host
  taken : t.taken = s.taken
  draws : t.draws = s.draws
  chIn : t.chIn <:+ s.chIn
  chan : t.chan <:+ s.chan
  accesses : ∃ new, t.accesses = s.accesses ++ new ∧ (∀ a ∈ new, isPush a = false) ∧
    (t.chIn ≠ s.chIn → ∃ a ∈ new, isPop a = true)

theorem ReadMove.refl (s : State) : ReadMove s s :=
  ⟨rfl, rfl, rfl, rfl, rfl, rfl, rfl, rfl, rfl, rfl, List.suffix_refl _, List.suffix_refl _, [], by simp⟩

theorem ReadMove.trans (h : ReadMove s t) (h' : ReadMove t u) : ReadMove s u := by
  obtain ⟨n1, e1, p1, q1⟩ := h.accesses
  obtain ⟨n2, e2, p2, q2⟩ := h'.accesses
  refine ⟨h'.lc.trans h.lc, h'.mode.trans h.mode, h'.pad.trans h.pad, h'.rsp.trans h.rsp, h'.chOut.trans h.chOut,
    h'.rst.trans h.rst, h'.cmd.trans h.cmd, h'.host.trans h.host, h'.taken.trans h.taken, h'.draws.trans h.draws,
    h'.chIn.trans h.chIn, h'.chan.trans h.chan, n1 ++ n2, by simp [e2, e1], ?_, ?_⟩
  · intro a ha
    rcases List.mem_append.1 ha with ha | ha
    · exact p1 a ha
    · exact p2 a ha
  · intro hne
    by_cases h2 : u.chIn = t.chIn
    · obtain ⟨a, ha, hp⟩ := q1 (by rw [← h2]; exact hne)
      exact ⟨a, by simp [ha], hp⟩
    · obtain ⟨a, ha, hp⟩ := q2 h2
      exact ⟨a, by simp [ha], hp⟩

theorem readMove_setLast_pop (b : Bool) (s : State) : ReadMove s ((s.access .pop).setLast b) :=
  ⟨rfl, rfl, rfl, rfl, rfl, rfl, rfl, rfl, rfl, rfl, List.suffix_refl _, List.tail_suffix _, [.pop], by
    simp [isPush]⟩

theorem readMove_popMoved (m : Bool) (s : State) : ReadMove s ((s.access .pop).popMoved m) := by
  refine ⟨by simp, by simp, by simp, by simp, by simp, by simp, by simp, by simp, by simp, by simp, ?_,
    by simpa using List.tail_suffix _, [.pop], by simp [isPush, isPop]⟩
  cases m <;> simp [List.tail_suffix]

theorem readMove_popped {b : Byte} {bs : List Byte} (h : s.chIn = b :: bs) : ReadMove s (popped b bs s) := by
  refine ⟨rfl, rfl, rfl, rfl, rfl, rfl, rfl, rfl, rfl, rfl, ?_, List.tail_suffix _, [.pop], by
    simp [popped, isPush, isPop]⟩
  simp [popped, h]

theorem readMove_probe (s : State) : ReadMove s (s.access .probe) :=
  ⟨rfl, rfl, rfl, rfl, rfl, rfl, rfl, rfl, rfl, rfl, List.suffix_refl _, List.tail_suffix _, [.probe], by
    simp [isPush]⟩

theorem readMove_setLast (b : Bool) (s : State) : ReadMove s (s.setLast b) :=
  ⟨rfl, rfl, rfl, rfl, rfl, rfl, rfl, rfl, rfl, rfl, List.suffix_refl _, List.suffix_refl _, [], by simp⟩

theorem readMove_extract (s : State) : ReadMove s (extract s).2 :=
  ⟨rfl, rfl, rfl, rfl, rfl, rfl, rfl, rfl, rfl, rfl, List.suffix_refl _, List.suffix_refl _, [], by simp⟩

theorem readMove_refilled {b : Byte} {bs : List Byte} (h : s.chIn = b :: bs) : ReadMove s (refilled b bs s) :=
  ((readMove_popped h).trans (readMove_probe _)).trans (readMove_setLast _ _)

theorem readMove_held {b : Byte} {bs : List Byte} (h : s.chIn = b :: bs) : ReadMove s (held b bs s) := by
  refine ⟨rfl, rfl, rfl, rfl, rfl, rfl, rfl, rfl, rfl, rfl, ?_, List.tail_suffix _, [.pop], by
    simp [held, isPush, isPop]⟩
  simp [held, h]

theorem readMove_heldProbed {b : Byte} {bs : List Byte} (h : s.chIn = b :: bs) : ReadMove s (heldProbed b bs s) :=
  ((readMove_held h).trans (readMove_probe _)).trans (readMove_setLast _ _)

theorem refill_move (s : State) : (refill s).on (ReadMove s) := by
  obtain ⟨_, _, h⟩ | ⟨b, bs, _, hi, _, h⟩ | ⟨b, bs, m, _, hi, _, h⟩ | ⟨b, bs, m, _, hi, _, h⟩ | ⟨b, bs, _, _, _, h⟩ |
    ⟨m, _, h⟩ | ⟨m, _, h⟩ | ⟨_, h⟩ := refill_cases s <;> rw [h]
  · exact readMove_setLast_pop _ _
  · exact (readMove_refilled hi).trans (readMove_extract _)
  · exact (readMove_popped hi).trans (readMove_probe _)
  · exact (readMove_popped hi).trans (readMove_probe _)
  · trivial
  · exact readMove_popMoved _ _
  · exact readMove_popMoved _ _
  · trivial

/-- The one-bit step's frame (R74). -/
theorem rb_move (s : State) : (rb s).on (ReadMove s) := by
  obtain ⟨_, h⟩ | ⟨_, _, h⟩ | ⟨_, _, h⟩ := rb_cases s <;> rw [h]
  · exact ReadMove.refl s
  · exact readMove_extract s
  · exact refill_move s

/-- The READ_NBITS loop's frame (R78). -/
theorem gather_move (n : Nat) (v : Data) (s : State) : (gather n v s).on (ReadMove s) := by
  induction n generalizing v s with
  | zero => exact ReadMove.refl s
  | succ n ih =>
    refine Result.on_bind (rb_move s) fun r u hu => ?_
    cases r with
    | bit b => exact Result.on_mono (fun _ h => hu.trans h) (ih (appendBit v b) u)
    | eod => exact hu

end Sys2Proof.Machine
end

