-- ==== Sys2Proof/Laws/Record.lean ====
section
/-! SUPPORT. What the commands put on record: every access with what `status_o` showed while it was in flight (10_state.md R24,
20_memory.md R47). -/

namespace Sys2Proof.Machine
open Sys2Proof

variable {s t u : State}

/-- From `s` to `t` the accesses put on record, each with what `status_o` showed, have this property. -/
def Records (P : Access → BitVec 24 → Prop) (s t : State) : Prop :=
  ∃ new : List (Access × BitVec 24), t.accesses = s.accesses ++ new.map Prod.fst ∧
    t.shown = s.shown ++ new.map Prod.snd ∧ ∀ p ∈ new, P p.1 p.2

theorem Records.refl (P : Access → BitVec 24 → Prop) (s : State) : Records P s s := ⟨[], by simp⟩

theorem Records.trans {P : Access → BitVec 24 → Prop} (h : Records P s t) (h' : Records P t u) : Records P s u := by
  obtain ⟨n1, a1, b1, p1⟩ := h
  obtain ⟨n2, a2, b2, p2⟩ := h'
  exact ⟨n1 ++ n2, by simp [a2, a1], by simp [b2, b1], fun p hp => (List.mem_append.1 hp).elim (p1 p) (p2 p)⟩

/-- One access puts one pair on record. -/
theorem records_access {P : Access → BitVec 24 → Prop} {a : Access} (h : P a (statusO s)) : Records P s (s.access a) :=
  ⟨[(a, statusO s)], by simp [h]⟩

/-- An update that makes no access puts nothing on record. -/
theorem Records.keep {P : Access → BitVec 24 → Prop} (h : Records P s t) (ha : u.accesses = t.accesses)
    (hs : u.shown = t.shown) : Records P s u := by
  obtain ⟨new, e, f, p⟩ := h
  exact ⟨new, ha.trans e, hs.trans f, p⟩

/-- What a read step shows at an access, in a session like that of `s`: a pop with BOFF = 0, a probe with BOFF = 8, LAST = 0
at both (R24, R74). -/
def ShownInRead (s : State) (a : Access) (w : BitVec 24) : Prop :=
  ∃ x : State, w = statusO x ∧ x.lc = s.lc ∧ x.mode = s.mode ∧ x.pad = s.pad ∧ x.last = false ∧
    (a = .pop ∧ x.boff = 0 ∨ a = .probe ∧ x.boff = 8)

theorem refill_records (hm : ReadMove s u) (hb : u.boff = 0) (hl : u.last = false) :
    (refill u).on (Records (ShownInRead s) u) := by
  have hp : Records (ShownInRead s) u (u.access .pop) :=
    records_access ⟨u, rfl, hm.lc, hm.mode, hm.pad, hl, .inl ⟨rfl, hb⟩⟩
  have hq (b : Byte) (bs : List Byte) : Records (ShownInRead s) u ((popped b bs u).access .probe) :=
    (hp.keep (u := popped b bs u) rfl rfl).trans
      (records_access ⟨popped b bs u, rfl, hm.lc, hm.mode, hm.pad, hl, .inr ⟨rfl, rfl⟩⟩)
  obtain ⟨_, _, h⟩ | ⟨b, bs, _, hi, _, h⟩ | ⟨b, bs, m, _, hi, _, h⟩ | ⟨b, bs, m, _, hi, _, h⟩ | ⟨b, bs, _, _, _, h⟩ |
    ⟨m, _, h⟩ | ⟨m, _, h⟩ | ⟨_, h⟩ := refill_cases u <;> rw [h]
  · exact hp.keep rfl rfl
  · exact (hq b bs).keep rfl rfl
  · exact hq b bs
  · exact hq b bs
  · trivial
  · exact hp.keep (by simp) (by simp)
  · exact hp.keep (by simp) (by simp)
  · trivial

/-- What the one-bit step puts on record (R74). -/
theorem rb_records (hm : ReadMove s u) : (rb u).on (Records (ShownInRead s) u) := by
  obtain ⟨_, h⟩ | ⟨_, _, h⟩ | ⟨hl, hb, h⟩ := rb_cases u <;> rw [h]
  · exact Records.refl _ u
  · exact (Records.refl _ u).keep rfl rfl
  · exact refill_records hm (Fin.ext hb) hl

/-- What the READ_NBITS loop puts on record (R78). -/
theorem gather_records (n : Nat) (v : Data) (hm : ReadMove s u) :
    (gather n v u).on (Records (ShownInRead s) u) := by
  induction n generalizing v u with
  | zero => exact Records.refl _ u
  | succ n ih =>
    have h := rb_records hm
    have h' := rb_move u
    unfold gather
    cases hr : rb u with
    | done r t =>
      rw [hr] at h h'
      cases r with
      | bit b => exact Result.on_mono (fun _ g => h.trans g) (ih (appendBit v b) (hm.trans h'))
      | eod => exact h
    | failed t => rw [hr] at h; exact h
    | abandoned t => rw [hr] at h; exact h
    | silent => trivial

/-- The record of a run, taken as pairs. -/
theorem recordedSince_eq {new : List (Access × BitVec 24)} (ha : t.accesses = s.accesses ++ new.map Prod.fst)
    (hs : t.shown = s.shown ++ new.map Prod.snd) : recordedSince s t = new := by
  simp [recordedSince, ha, hs, List.zip_map']

/-- A command that ends puts on record what its body did. -/
theorem records_finish {α : Type} {P : Access → BitVec 24 → Prop} {r : Result α} {k : α → State → Out}
    (hr : r.on (Records P s)) (hk : ∀ a v, k a v = .next t → t.accesses = v.accesses ∧ t.shown = v.shown) (h : r.finish k = .next t) : Records P s t := by
  obtain ⟨a, v, e, h⟩ | ⟨v, e, rfl⟩ | ⟨v, e, rfl⟩ := finish_next h <;> rw [e] at hr
  · exact Records.keep hr (hk a v h).1 (hk a v h).2
  · exact Records.keep hr rfl rfl
  · exact Records.keep hr rfl rfl

end Sys2Proof.Machine
end

