-- ==== Sys2Proof/Laws/Step.lean ====
section
/-! SUPPORT. What a step can do, said once, and how runs of words are put together. -/

namespace Sys2Proof.Machine

open Sys2Proof

variable {s t u : State}

/-! ### A step -/

/-- Everything a step that answers a next state can have done: run the waiting word's command, answer an illegal word, or
let the host move (R50, R64, R99). -/
theorem step_cases (h : step s = .next t) :
    (∃ w i, Ready s ∧ s.cmd = some w ∧ decode w = some i ∧ exec i { s with cmd := none } = .next t) ∨
    (∃ w, Ready s ∧ s.cmd = some w ∧ decode w = none ∧ t = ({ s with cmd := none } : State).load .errIllegal 0) ∨
    ((Ready s → s.cmd = none) ∧ hostMove s = .next t) := by
  unfold step stepOnce at h
  by_cases hc : cmdReady s = true
  · cases hw : s.cmd with
    | none => exact .inr (.inr ⟨fun _ => rfl, by simpa [hc, hw] using h⟩)
    | some w =>
      simp only [hc, hw, if_true, runWord] at h
      cases hd : decode w with
      | none => exact .inr (.inl ⟨w, hc, rfl, hd, by simpa [hd, execIllegal] using h.symm⟩)
      | some i => exact .inl ⟨w, i, hc, rfl, hd, by simpa [hd] using h⟩
  · exact .inr (.inr ⟨fun h' => absurd h' hc, by simpa [hc] using h⟩)

/-- Everything the host can have done in a step that answers a next state (R106). -/
theorem hostMove_cases (h : hostMove s = .next t) :
    (s.host = [] ∧ t = s) ∨
    (∃ w rest, s.host = .raise w :: rest ∧ s.cmd = none ∧ t = { s with host := rest, cmd := some w }) ∨
    (∃ rest, s.host = .take :: rest ∧ t = takeResponse { s with host := rest }) ∨
    (∃ rest, s.host = .assertRst :: rest ∧ t = resetEdge { s with host := rest }) ∨
    (∃ rest, s.host = .releaseRst :: rest ∧ t = { s with host := rest, rst := false }) ∨
    (∃ bs rest, s.host = .connect bs :: rest ∧ (s.lc = .idle ∨ s.mode = .write) ∧
      t = { s with host := rest, chIn := bs }) := by
  unfold hostMove at h
  cases hh : s.host with
  | nil =>
    simp [hh] at h
    simp [h]
  | cons e rest =>
    simp only [hh] at h
    cases e with
    | raise w =>
      simp only [hostEvent, raiseWord] at h
      split at h <;> simp_all
    | take =>
      simp [hostEvent] at h
      simp [h]
    | assertRst =>
      simp [hostEvent] at h
      simp [h]
    | releaseRst =>
      simp [hostEvent] at h
      simp [h]
    | connect bs =>
      simp only [hostEvent, connectChannel] at h
      split at h
      · simp at h
      · rename_i hc
        simp at h
        simp [inReadSession] at hc
        refine .inr (.inr (.inr (.inr (.inr ⟨bs, rest, rfl, ?_, h.symm⟩))))
        by_cases hi : s.lc = .idle
        · exact .inl hi
        · refine .inr ?_
          have := hc hi
          cases hm : s.mode <;> simp_all

/-! ### Runs (R117) -/

theorem ready_iff : Ready s ↔ s.rst = false ∧ s.rsp = none := by
  simp [Ready, cmdReady]

/-- A word whose command answers a response is issued: the response, and the state once it is taken. -/
theorem issue_of_exec {w : Word} {i : Instr} {r : Response} (hs : Ready s) (hd : decode w = some i)
    (he : exec i { s with cmd := none } = .next t) (hr : t.rsp = some r) : issue w s = some (r, takeResponse t) := by
  have h1 : cmdReady s = true := hs
  have h2 : cmdReady { s with cmd := some w } = true := hs
  simp only [issue, h1, if_true, step, stepOnce, h2, runWord, hd]
  simp [he, hr]

theorem issueAll_cons {w : Word} {ws : List Word} {r : Response} {rs : List Response}
    (h : issue w s = some (r, t)) (h' : issueAll ws t = some (rs, u)) : issueAll (w :: ws) s = some (r :: rs, u) := by
  simp [issueAll, h, h']

theorem issueAll_append {ws ws' : List Word} {rs rs' : List Response}
    (h : issueAll ws s = some (rs, t)) (h' : issueAll ws' t = some (rs', u)) :
    issueAll (ws ++ ws') s = some (rs ++ rs', u) := by
  induction ws generalizing s rs with
  | nil =>
    simp [issueAll] at h
    obtain ⟨rfl, rfl⟩ := h
    simpa using h'
  | cons w ws ih =>
    simp only [issueAll, List.cons_append, Option.bind_eq_some_iff, Option.map_eq_some_iff] at h ⊢
    obtain ⟨a, ha, b, hb, hc⟩ := h
    cases hc
    exact ⟨a, ha, (b.1 ++ rs', u), ih hb, rfl⟩

end Sys2Proof.Machine
end

