-- ==== Sys2Proof/Laws/Streams.lean ====
section
/-! SUPPORT. Bits and bytes: how the accumulator's bits read as a list (10_state.md R18) and byte sequences as bit streams
(20_memory.md R42). -/

namespace Sys2Proof

open Sys2Proof.Machine

/-! ### The accumulator -/

theorem placeBit_toNat (b : Bool) (acc : Byte) : (placeBit b acc).toNat = (2 * acc.toNat + b.toNat) % 256 := by
  revert acc b; decide

theorem lowBits_length (b : Byte) (k : Nat) : (lowBits b k).length = k := by
  induction k with
  | zero => rfl
  | succ k ih => simp [lowBits, ih]

/-- Clearing a bit leaves the bits below it. -/
theorem lowBits_clear (b : Byte) (k j : Nat) (hk : k < 8) (h : j ≤ k) :
    lowBits (b &&& ~~~(0x01#8 <<< k)) j = lowBits b j := by
  induction j with
  | zero => rfl
  | succ j ih =>
    simp only [lowBits, ih (by omega)]
    congr 1
    have : j < 8 := by omega
    simp [this]
    intro _; omega

/-! ### Byte sequences -/

theorem streamBits_cons (b : Byte) (bs : List Byte) : streamBits (b :: bs) = byteBits b ++ streamBits bs := rfl

theorem streamBits_append (bs cs : List Byte) : streamBits (bs ++ cs) = streamBits bs ++ streamBits cs := by
  simp [streamBits]

theorem streamBits_length (bs : List Byte) : (streamBits bs).length = 8 * bs.length := by
  induction bs with
  | nil => rfl
  | cons b bs ih =>
    rw [streamBits_cons, List.length_append, ih, byteBits, lowBits_length, List.length_cons]
    omega

end Sys2Proof
end

