-- ==== Sys2Proof/Machine/Assembler.lean ====
section
/-! DEFINITION. The assembler syntax (30_encoding.md R62) and the expansion of the pseudo-instruction (R63), over lines given
as character lists. R62 says of mnemonics only that they are case-insensitive; that the operand letters `r` and `w`, the
`0x` of a number and its digits are read in either case, and the spelling of numbers, is DESIGN CHOICE (log entry 18). -/

namespace Sys2Proof.Machine

open Sys2Proof

/-- One line of assembler, by its syntax (R62, R63). -/
inductive AsmLine where
  /-- `construct r, <pad>`. -/
  | constructR (pad : Nat)
  /-- `construct w`. -/
  | constructW
  /-- `write_bit <imm8>`; `write_bit '0'` and `write_bit '1'` are its values 0x30 and 0x31. -/
  | writeBit (imm : Nat)
  /-- `read_bit`. -/
  | readBit
  /-- `read_byte`. -/
  | readByte
  /-- `read_nbits <n>`. -/
  | readNbits (n : Nat)
  /-- `close`. -/
  | close
  /-- `.word <imm16>`, any word, legal or not. -/
  | word (imm : Nat)
  /-- `write_bitstring "<s>"`, the pseudo-instruction (R63). -/
  | writeBitstring (codes : List Nat)
  deriving DecidableEq, Repr

/-- The words of a list of character codes: one WRITE_BIT each, `none` where a code has more than eight bits (R63). -/
def bitstringWords : List Nat → Option (List Word)
  | [] => some []
  | c :: cs =>
    if c < 256 then (bitstringWords cs).map fun ws => encode (.writeBit (BitVec.ofNat 8 c)) :: ws else none

/-- The words of a line; `none` where an operand is out of its range (R62). -/
def assembleLine : AsmLine → Option (List Word)
  | .constructR pad => if pad < 8 then some [encode (.constructR (BitVec.ofNat 3 pad))] else none
  | .constructW => some [encode .constructW]
  | .writeBit imm => if imm < 256 then some [encode (.writeBit (BitVec.ofNat 8 imm))] else none
  | .readBit => some [encode .readBit]
  | .readByte => some [encode .readByte]
  | .readNbits n => if n < 128 then some [encode (.readNbits n)] else none
  | .close => some [encode .close]
  | .word imm => if imm < 65536 then some [BitVec.ofNat 16 imm] else none
  | .writeBitstring codes => bitstringWords codes

/-! ### Reading a line -/

/-- A letter in lower case: mnemonics are case-insensitive (R62). -/
def lowerCode (c : Nat) : Nat := if 0x41 ≤ c ∧ c ≤ 0x5A then c + 0x20 else c

/-- White space. -/
def isSpaceCode (c : Nat) : Bool := c == 0x20 || c == 0x09

/-- The line up to a `;` that stands outside quotation marks; `open?` is the mark that is open (R62). -/
def stripComment : Option Nat → List Nat → List Nat
  | _, [] => []
  | none, c :: cs =>
    if c = 0x3B then []
    else if c = 0x22 ∨ c = 0x27 then c :: stripComment (some c) cs
    else c :: stripComment none cs
  | some q, c :: cs => c :: stripComment (if c = q then none else some q) cs

/-- A list without white space at either end. -/
def trimCodes (cs : List Nat) : List Nat := ((cs.dropWhile isSpaceCode).reverse.dropWhile isSpaceCode).reverse

/-- The value of a digit in base 16. -/
def digitValue (c : Nat) : Option Nat :=
  if 0x30 ≤ c ∧ c ≤ 0x39 then some (c - 0x30)
  else if 0x61 ≤ c ∧ c ≤ 0x66 then some (c - 0x61 + 10)
  else none

/-- Digits in a base, after a value already read. -/
def readDigits (base : Nat) : Nat → List Nat → Option Nat
  | v, [] => some v
  | v, c :: cs => (digitValue c).bind fun d => if d < base then readDigits base (v * base + d) cs else none

/-- A number: decimal, or hexadecimal after `0x`, letters in either case (DESIGN CHOICE, log entry 18). -/
def readNumber (cs : List Nat) : Option Nat :=
  match cs.map lowerCode with
  | [] => none
  | 0x30 :: 0x78 :: [] => none
  | 0x30 :: 0x78 :: ds => readDigits 16 0 ds
  | ds => readDigits 10 0 ds

/-- The codes between the outermost two marks. No rule gives a quoting or an escape for a mark inside: that it is a character
like any other is DESIGN CHOICE (R63, log entry 18). -/
def unquote (q : Nat) (cs : List Nat) : Option (List Nat) :=
  match cs with
  | [] => none
  | c :: rest =>
    match rest.reverse with
    | [] => none
    | d :: body => if c = q ∧ d = q then some body.reverse else none

/-- The operand of `write_bit`: a bit character in quotation marks, or a number (R62). -/
def readSymbol (cs : List Nat) : Option AsmLine :=
  match unquote 0x27 cs with
  | some [0x30] => some (.writeBit 0x30)
  | some [0x31] => some (.writeBit 0x31)
  | some _ => none
  | none => (readNumber cs).map .writeBit

/-- The operands of `construct`: `w`, or `r, <pad>` (R62). The operand letters are read in either case, where R62 speaks of
mnemonics only (DESIGN CHOICE, log entry 18). -/
def readConstruct (cs : List Nat) : Option AsmLine :=
  match cs.map lowerCode with
  | [0x77] => some .constructW
  | 0x72 :: rest =>
    match trimCodes rest with
    | 0x2C :: num => (readNumber (trimCodes num)).map .constructR
    | _ => none
  | _ => none

/-- A mnemonic as the codes of its letters. -/
def nameCodes (name : List Char) : List Nat := name.map Char.toNat

/-- A line that has no operand. -/
def plainLine (operand : List Nat) (l : AsmLine) : Option AsmLine := if operand.isEmpty then some l else none

/-- A line by its mnemonic and its operand text (R62). -/
def readCommand (name operand : List Nat) : Option AsmLine :=
  if name = nameCodes ['c', 'o', 'n', 's', 't', 'r', 'u', 'c', 't'] then readConstruct operand
  else if name = nameCodes ['w', 'r', 'i', 't', 'e', '_', 'b', 'i', 't'] then readSymbol operand
  else if name = nameCodes ['r', 'e', 'a', 'd', '_', 'b', 'i', 't'] then plainLine operand .readBit
  else if name = nameCodes ['r', 'e', 'a', 'd', '_', 'b', 'y', 't', 'e'] then plainLine operand .readByte
  else if name = nameCodes ['r', 'e', 'a', 'd', '_', 'n', 'b', 'i', 't', 's'] then (readNumber operand).map .readNbits
  else if name = nameCodes ['c', 'l', 'o', 's', 'e'] then plainLine operand .close
  else if name = nameCodes ['.', 'w', 'o', 'r', 'd'] then (readNumber operand).map .word
  else if name = nameCodes ['w', 'r', 'i', 't', 'e', '_', 'b', 'i', 't', 's', 't', 'r', 'i', 'n', 'g'] then
    (unquote 0x22 operand).map .writeBitstring
  else none

/-- The words of one source line, given as its character codes; a line of nothing but a comment has none (R62, R63). -/
def assemble (line : List Nat) : Option (List Word) :=
  let text := trimCodes (stripComment none line)
  if text.isEmpty then some []
  else
    let name := (text.takeWhile fun c => !isSpaceCode c).map lowerCode
    let operand := trimCodes (text.dropWhile fun c => !isSpaceCode c)
    (readCommand name operand).bind assembleLine

end Sys2Proof.Machine
end

