-- ==== Sys2Proof/Tests/Slice0.lean ====
section
/-! SUPPORT. The model's own tests: the check of WellFormed, the decoder on words written out from the encoding rules, one or
two single steps per command with results from spec/95_test_vectors.md and the rules' own examples, and for every statement
that has premises a concrete state that meets them. -/

namespace Sys2Proof.Tests

open Sys2Proof Sys2Proof.Machine

/-! ### Helpers -/

/-- The state an outcome goes on in. -/
def after (o : Out) : Option State :=
  match o with
  | .next s => some s
  | .fault _ => none
  | .refused _ => none

/-- The response an outcome leaves, as its status and its data. -/
def answer (o : Out) : Option (Status × Nat) := (after o).bind fun s => s.rsp.map fun r => (r.status, r.data.toNat)

/-- The outcome is this fault. -/
def faultsWith (o : Out) (f : Fault) : Bool :=
  match o with
  | .next _ => false
  | .fault g => g == f
  | .refused _ => false

/-- The outcome is this refusal. -/
def refusesWith (o : Out) (f : Refusal) : Bool :=
  match o with
  | .next _ => false
  | .fault _ => false
  | .refused g => g == f

/-- The observation vector after an outcome. -/
def statusAfter (o : Out) : Option Nat := (after o).map fun s => (statusO s).toNat

/-- An open Write session with `k` bits in ACC. -/
def writing (k : Fin 9) (acc : Byte) : State := { State.reset with lc := .opened, mode := .write, acc := acc, boff := k }

/-- An open Read session. -/
def reading (pad : BitVec 3) (k : Fin 9) (acc : Byte) (last : Bool) (bytes : List Byte) : State :=
  { State.reset with lc := .opened, pad := pad, boff := k, acc := acc, last := last, chIn := bytes }

/-- A FAILED Write session. -/
def failedSession : State := { State.reset with lc := .failed, mode := .write, acc := 0x5A, boff := 8, last := true }

/-- A state with a word on the command port. -/
def offering (w : Word) (s : State) : State := { s with cmd := some w }

/-- A state whose next channel answers are these. -/
def answering (answers : List ChanAnswer) (s : State) : State := { s with chan := answers }

/-- A state whose host does these next. -/
def hosting (events : List HostEvent) (s : State) : State := { s with host := events }

/-- A state with a response not yet taken. -/
def holding (r : Response) (s : State) : State := { s with rsp := some r }

/-! ### WellFormed: the one check, refused and at its boundary (R55) -/

theorem test_wf_refuses_n_128 : Instr.wf (.readNbits 128) = false := by decide

theorem test_wf_admits_n_127 : Instr.wf (.readNbits 127) = true := by decide

/-! ### Decoding words written out from R54 to R57 -/

theorem test_decode_construct_read : decode 0b0001011100000000 = some (.constructR 7) := by decide

theorem test_decode_construct_write : decode 0b0001100000000000 = some .constructW := by decide

theorem test_decode_write_bit : decode 0b0010000000110000 = some (.writeBit 0x30) := by decide

theorem test_decode_write_bit_bad_symbol : decode 0b0010000011111111 = some (.writeBit 0xFF) := by decide

theorem test_decode_read_bit : decode 0b0011000000000000 = some .readBit := by decide

theorem test_decode_read_byte : decode 0b0100000000000000 = some .readByte := by decide

theorem test_decode_read_nbits : decode 0b0101000000010000 = some (.readNbits 16) := by decide

theorem test_decode_read_nbits_127 : decode 0b0101000001111111 = some (.readNbits 127) := by decide

theorem test_decode_close : decode 0b0110000000000000 = some .close := by decide

/-- The illegal sample words of 95_test_vectors.md V9. -/
theorem test_decode_illegal_words :
    [0x0000, 0x0FFF, 0x1801, 0x1900, 0x1010, 0x2130, 0x3001, 0x3800, 0x4100, 0x5080, 0x5C00, 0x6001, 0x7000, 0x8000,
      0xA5A5, 0xFFFF].all (fun w : Word => (decode w).isNone) = true := by decide

theorem test_decode_table_word : decodeTableWord 16 0x5041 = some (.readNbits 65) := by decide

/-- The word of every row of R62's table. -/
theorem test_encode_words :
    words [.constructR 5, .constructW, .writeBit 0x31, .readBit, .readByte, .readNbits 64, .close] =
      [0x1500, 0x1800, 0x2031, 0x3000, 0x4000, 0x5040, 0x6000] := by decide

/-- R62: `construct r, 5`, in mixed case and with a comment. -/
theorem test_assemble_construct : assemble (nameCodes "Construct R, 5 ; open".toList) = some [0x1500] := by decide

/-- R62: `write_bit '1'`, `read_nbits 16` and `.word 0x1900`. -/
theorem test_assemble_operands :
    [assemble (nameCodes "write_bit '1'".toList), assemble (nameCodes "read_nbits 16".toList),
      assemble (nameCodes ".word 0x1900".toList)] = [some [0x2031], some [0x5010], some [0x1900]] := by decide

/-- R63's example. -/
theorem test_assemble_bitstring :
    assemble (nameCodes "write_bitstring \"101\"".toList) = some [0x2031, 0x2030, 0x2031] := by decide

/-! ### Single steps -/

/-- R65's example; 95_test_vectors.md V1, `status_o` 0x000281. -/
theorem test_construct_read : statusAfter (step (State.reset.withFetchWord 16 0x1500)) = some 0x000281 := by decide

/-- V1: `status_o` 0x000005. -/
theorem test_construct_write : statusAfter (step (State.reset.withFetchWord 16 0x1800)) = some 0x000005 := by decide

/-- V1: CONSTRUCT Write with PAD = 1 is illegal and leaves IDLE. -/
theorem test_construct_write_padded :
    answer (step (State.reset.withFetchWord 16 0x1900)) = some (.errIllegal, 0) := by decide

/-- R68's example: the eighth bit pushes 0xB0. -/
theorem test_write_bit_flush : (after (exec (.writeBit 0x30) (writing 7 0x58))).map
    (fun t => (t.acc, t.boff, t.chOut)) = some (0x00, 0, [0xB0]) := by decide

/-- V2 row 3: a bad symbol is refused. -/
theorem test_write_bit_symbol : answer (exec (.writeBit 0x32) (writing 1 0x01)) = some (.errSymbol, 0) := by decide

/-- R74's example: the refill of the last byte. -/
theorem test_read_bit_refill : (after (exec .readBit (reading 0 0 0x00 false [0xCA]))).map
    (fun t => (t.acc, t.boff, t.last, t.chIn, t.rsp)) = some (0x4A, 7, true, [], some ⟨.ok, 1⟩) := by decide

/-- E6 row 5: the filler of the last byte is no data. -/
theorem test_read_bit_filler : answer (exec .readBit (reading 5 5 0x00 true [])) = some (.eod, 0) := by decide

/-- R76's example. -/
theorem test_read_byte : (after (exec .readByte (reading 0 0 0x00 false [0x12, 0x34]))).map
    (fun t => (t.acc, t.boff, t.last, t.chIn, t.rsp)) = some (0x12, 0, false, [0x34], some ⟨.ok, 0x12⟩) := by decide

/-- R76: with LAST = 1 the unread bits of ACC stay where they are. -/
theorem test_read_byte_at_end : (after (exec .readByte (reading 0 3 0x05 true []))).map
    (fun t => (t.acc, t.boff, t.rsp)) = some (0x05, 3, some ⟨.eod, 0⟩) := by decide

/-- R78's example. -/
theorem test_read_nbits : (after (exec (.readNbits 16) (reading 0 0 0x00 false [0xDE, 0xAD]))).map
    (fun t => (t.acc, t.last, t.chIn, t.rsp)) = some (0x00, true, [], some ⟨.ok, 0xDEAD⟩) := by decide

/-- R78: a short read answers EOD and keeps the bits consumed. -/
theorem test_read_nbits_short : (after (exec (.readNbits 9) (reading 0 0 0x00 false [0xFF]))).map
    (fun t => (t.boff, t.rsp)) = some (0, some ⟨.eod, 0⟩) := by decide

/-- R80's example. -/
theorem test_close_write : (after (exec .close (writing 3 0x05))).map
    (fun t => (t.chOut, t.rsp, t.lc)) = some ([0xA0], some ⟨.ok, 5⟩, .idle) := by decide

/-- V8: CLOSE of a FAILED session. -/
theorem test_close_failed : (after (exec .close failedSession)).map
    (fun t => (t.rsp, t.lc, t.chOut)) = some (some ⟨.errFailed, 0⟩, .idle, []) := by decide

/-- V10, E3 after row 8: `status_o` 0x58003D. -/
theorem test_status_vector : statusO (writing 7 0x58) = 0x58003D := by decide

/-! ### The host and the port -/

theorem test_silent_channel : faultsWith (exec .readByte (answering [.never] (reading 0 0 0x00 false [0x12])))
    .channelSilent = true := by decide

theorem test_count_out_of_range : faultsWith (exec (.writeBit 0x31) (writing 8 0xFF)) .boffRange = true := by decide

/-- R34: the refill of the last byte pulses `ch_rd_pop` with the byte at the port, and the probe sees `ch_rd_eos` without a
pulse. -/
theorem test_port_cycles_read :
    (commandCycles .readBit (reading 0 0 0x00 false [0xCA])).map (fun c => (c.rd, c.out.chRdPop)) =
      [(some ⟨true, false, false, some 0xCA⟩, true), (some ⟨true, true, false, none⟩, false)] := by decide

/-- R34: a failed port of an empty channel shows `ch_rd_eos` too, and nothing is popped. -/
theorem test_port_failed_empty :
    (commandCycles .readByte (answering [.err false] (reading 0 0 0x00 false []))).map
      (fun c => (c.rd, c.out.chRdPop)) = [(some ⟨true, true, true, none⟩, false)] := by decide

/-- R35: the last byte of R80's example is offered and transfers. -/
theorem test_port_cycles_write :
    (commandCycles .close (writing 3 0x05)).map (fun c => (c.out.chWrValid, c.out.chWrData, c.wr)) =
      [(true, some 0xA0, some ⟨true, false⟩)] := by decide

/-- R101: a push whose handshake the port shows at the edge of the reset, not taken: the byte is offered and not in OUT. -/
theorem test_port_handshake_not_taken :
    let s := answering [.rst (.answered false false)] (writing 3 0x05)
    (commandCycles .close s).map (fun c => (c.rst, c.out.chWrValid, c.wr)) = [(true, true, some ⟨true, false⟩)] ∧
      (after (exec .close s)).map (fun t => (t.chOut, t.rst)) = some ([], true) := by decide

/-- R24 with R68's example: `status_o` while the byte 0xB0 is offered, BOFF = 8. -/
theorem test_status_at_push : (commandCycles (.writeBit 0x30) (writing 7 0x58)).map
    (fun c => (c.access, c.out.statusO, c.out.cmdReady)) = [(.push 0xB0, 0xB00045, false)] := by decide

/-- R24 with R74's example: `status_o` at the pop, and at the probe with the byte in ACC. -/
theorem test_status_at_refill : (commandCycles .readBit (reading 0 0 0x00 false [0xCA])).map
    (fun c => c.out.statusO) = [0x000001, 0xCA0041] := by decide

/-- R41, R35: an offer that is never answered stands, and the registers hold. -/
theorem test_port_never_answered : (commandCycles .close (answering [.never] (writing 3 0x05))).map
    (fun c => (c.out.chWrData, c.wr, c.rst, c.out.statusO)) = [(some 0xA0, some ⟨false, false⟩, false, 0x05001D)] := by
  decide

theorem test_word_not_held :
    refusesWith (step (hosting [.raise 0x3000] (holding ⟨.ok, 0⟩ (offering 0x6000 State.reset)))) .wordNotHeld =
      true := by decide

theorem test_channel_swapped : refusesWith (step (hosting [.connect [0x01]] (reading 0 0 0x00 false [0x12])))
    .channelSwapped = true := by decide

theorem test_bitstring_stops : (writeBitstring [0x31, 0x30, 0x32, 0x31] (writing 0 0x00)).map
    (fun p => (p.1, p.2.acc, p.2.boff)) = some (.errSymbol, 0x02, 2) := by decide

/-- A run ends when its last response has been taken (R117). -/
theorem test_run_ended : (after (step (hosting [.take] (holding ⟨.ok, 0⟩ State.reset)))).map
    (fun t => (runEnded t, (observe t).responses)) = some (true, [⟨.ok, 0⟩]) := by decide

/-! ### Witnesses: a concrete state and operands that meet all the premises of a statement together -/

/-- `exec` goes on from `s` to a state with this property. -/
def goesOn (o : Out) (p : State → Bool) : Bool :=
  match o with
  | .next t => p t
  | .fault _ => false
  | .refused _ => false

theorem next_of_goesOn {o : Out} {p : State → Bool} (h : goesOn o p = true) : ∃ t, o = .next t ∧ p t = true := by
  cases o with
  | next t => exact ⟨t, rfl, h⟩
  | fault f => cases h
  | refused f => cases h

theorem no_response_data {s : State} (h : s.rsp = none) : ∀ r, s.rsp = some r → r.status ≠ .ok → r.data = 0 := by
  simp [h]

theorem test_witness_ResetSetsEveryRegister :
    let s := hosting [.assertRst] (writing 7 0x58)
    (Ready s → s.cmd = none) ∧ s.host = .assertRst :: [] := by decide

theorem test_witness_ResetSetsEveryRegister_busy :
    let s := hosting [.assertRst] (holding ⟨.ok, 5⟩ (offering 0x3000 (writing 7 0x58)))
    (Ready s → s.cmd = none) ∧ s.host = .assertRst :: [] := by decide

theorem test_witness_StepKeepsInvariant :
    let s := offering 0x3000 (reading 0 3 0x05 true [])
    Inv s ∧ ∃ t, step s = .next t :=
  ⟨⟨by decide, by decide, by decide, by decide, by decide, by decide, by decide, by decide,
    no_response_data rfl⟩, _, rfl⟩

theorem test_witness_StepKeepsInvariant_write :
    let s := offering 0x2031 (writing 7 0x7F)
    Inv s ∧ ∃ t, step s = .next t :=
  ⟨⟨by decide, by decide, by decide, by decide, by decide, by decide, by decide, by decide,
    no_response_data rfl⟩, _, rfl⟩

theorem test_witness_IdleMeansEveryRegisterZero :
    let s := offering 0x6000 (writing 3 0x05)
    (s.lc = .idle → regs s = idleValues) ∧ ∃ t, step s = .next t ∧ decide (t.lc = .idle) = true :=
  ⟨by decide, next_of_goesOn (by decide)⟩

theorem test_witness_IdleMeansEveryRegisterZero_close :
    failedSession.lc ≠ .idle ∧ ∃ t, exec .close failedSession = .next t :=
  ⟨by decide, _, rfl⟩

theorem test_witness_ReadAccumulatorHoldsOnlyUnreadBits_construct :
    State.reset.lc = .idle ∧ ∃ t, exec (.constructR 7) State.reset = .next t :=
  ⟨rfl, _, rfl⟩

theorem test_witness_ReadAccumulatorHoldsOnlyUnreadBits :
    let s := reading 0 7 0x7F false [0x01]
    Reading s ∧ Instr.readNbits 9 ≠ .readByte ∧ s.acc.toNat < 2 ^ s.boff.val ∧
      ∃ t, exec (.readNbits 9) s = .next t ∧ decide (Reading t) = true :=
  ⟨by decide, by decide, by decide, next_of_goesOn (by decide)⟩

theorem test_witness_ReadAccumulatorHoldsOnlyUnreadBits_refill :
    let s := reading 0 0 0x12 false [0x34]
    Reading s ∧ (Instr.readNbits 8 = .readBit ∨ ∃ n, Instr.readNbits 8 = .readNbits n) ∧
      ∃ t, exec (.readNbits 8) s = .next t ∧ decide (Reading t ∧ t.chIn ≠ s.chIn ∧ t.boff = 0) = true :=
  ⟨by decide, .inr ⟨8, rfl⟩, next_of_goesOn (by decide)⟩

theorem test_witness_LookAheadSawAByte_fresh :
    let s := reading 0 0 0x00 false [0x01, 0x80]
    Reading s ∧ 0 ≤ s.accesses.length ∧ (s.last = false → (s.accesses.length = 0 ∧ s.boff = 0) ∨ s.chIn ≠ []) ∧
      ∃ t, exec .readBit s = .next t ∧ decide (Reading t ∧ t.last = false) = true :=
  ⟨by decide, by decide, by decide, next_of_goesOn (by decide)⟩

theorem test_witness_LookAheadSawAByte_empty :
    let s := reading 0 0 0x00 false []
    Reading s ∧ 0 ≤ s.accesses.length ∧ (s.last = false → (s.accesses.length = 0 ∧ s.boff = 0) ∨ s.chIn ≠ []) ∧
      ∃ t, exec (.readNbits 0) s = .next t ∧ decide (Reading t ∧ t.last = false) = true :=
  ⟨by decide, by decide, by decide, next_of_goesOn (by decide)⟩

theorem test_witness_LifecycleMovesOnlyAsNamed_construct :
    let s := offering 0x1800 State.reset
    ∃ t, step s = .next t ∧ decide (t.lc ≠ s.lc ∧ t.lc = .opened) = true :=
  next_of_goesOn (by decide)

theorem test_witness_LifecycleMovesOnlyAsNamed_failure :
    let s := offering 0x2031 (answering [.err true] (writing 7 0x7F))
    ∃ t, step s = .next t ∧ decide (t.lc ≠ s.lc ∧ t.lc = .failed) = true :=
  next_of_goesOn (by decide)

theorem test_witness_LifecycleMovesOnlyAsNamed_close :
    let s := offering 0x6000 failedSession
    ∃ t, step s = .next t ∧ decide (t.lc ≠ s.lc ∧ t.lc = .idle) = true :=
  next_of_goesOn (by decide)

theorem test_witness_LifecycleMovesOnlyAsNamed_reset :
    let s := offering 0x6000 (answering [.rst .waiting] (writing 7 0x7F))
    ∃ t, step s = .next t ∧ decide (t.lc ≠ s.lc ∧ t.rst = true) = true :=
  next_of_goesOn (by decide)

theorem test_witness_ModeAndPadFixedInASession :
    let s := offering 0x4000 (answering [.err false] (reading 7 0 0x00 false [0x80]))
    s.lc ≠ .idle ∧ ∃ t, step s = .next t ∧ decide (t.lc = .failed) = true :=
  ⟨by decide, next_of_goesOn (by decide)⟩

theorem test_witness_LastStaysSetInASession_read :
    let s := offering 0x5040 (reading 0 7 0x7F true [])
    s.lc = .opened ∧ s.last = true ∧ ∃ t, step s = .next t ∧ decide (t.lc = .opened) = true :=
  ⟨by decide, by decide, next_of_goesOn (by decide)⟩

theorem test_witness_LastStaysSetInASession_write :
    let s := offering 0x2030 (writing 7 0x7F)
    s.lc = .opened ∧ s.mode = .write ∧ ∃ t, step s = .next t ∧ decide (t.lc = .opened) = true :=
  ⟨by decide, by decide, next_of_goesOn (by decide)⟩

theorem test_witness_StatusVectorShowsTheRegisters :
    let s := answering [.ok, .ok, .ok, .err true] (reading 0 0 0x00 false [0x12, 0x34])
    ∃ t, exec (.readNbits 9) s = .next t ∧
      decide (t.accesses = [.pop, .probe, .pop, .probe] ∧ t.shown = [0x000001, 0x120041, 0x000001, 0x340041]) = true :=
  next_of_goesOn (by decide)

theorem test_witness_StatusVectorShowsTheRegisters_write :
    ∃ t, exec (.writeBit 0x30) (writing 7 0x58) = .next t ∧ decide (t.shown = [0xB00045]) = true :=
  next_of_goesOn (by decide)

theorem test_witness_DecodeAndEncodeAreInverse :
    Instr.wf (.readNbits 127) = true ∧ decode 0x507F = some (.readNbits 127) := by decide

theorem test_witness_OpcodeMapSelectsOneRowOrNone :
    (0x0FFF#16).extractLsb' 12 4 = 0x0 ∧ 0x7 ≤ ((0x7000#16).extractLsb' 12 4).toNat ∧
      opcodeTable ≠ [] := by decide

theorem test_witness_IllegalWordsAreAnsweredErrIllegal :
    let s := offering 0x1080 failedSession
    Ready s ∧ s.cmd = some 0x1080 ∧ decode 0x1080 = none ∧ Writing (writing 8 0xFF) ∧
      (0x2F#8) ≠ 0x30 ∧ (0x2F#8) ≠ 0x31 ∧ Reading (reading 0 0 0x00 false []) ∧ 64 < 65 := by decide

theorem test_witness_StatusCodesAreAsListed :
    (outputs (holding ⟨.errFailed, 0⟩ failedSession)).rspStatus = some 0x9 := by decide

theorem test_witness_ResponseDataPerCommand_ok :
    ∃ t, exec .close (writing 7 0x7F) = .next t ∧ decide (t.rsp = some ⟨.ok, 1⟩) = true :=
  next_of_goesOn (by decide)

theorem test_witness_ResponseDataPerCommand_nbits :
    ∃ t, exec (.readNbits 1) (reading 0 1 0x01 true []) = .next t ∧ decide (t.rsp = some ⟨.ok, 1⟩) = true :=
  next_of_goesOn (by decide)

theorem test_witness_ResponseDataPerCommand_error :
    ∃ t, exec (.readNbits 65) (reading 0 1 0x01 true []) = .next t ∧ decide (t.rsp = some ⟨.errNbits, 0⟩) = true :=
  next_of_goesOn (by decide)

theorem test_witness_StepRunsTheDecodedCommand :
    Ready (offering 0x6000 failedSession) ∧ (offering 0x6000 failedSession).cmd = some 0x6000 ∧
      decode 0x6000 = some .close ∧ decodeTableWord 16 0x6000 = some .close ∧ 0x6000 < 65536 := by decide

theorem test_witness_BusyPortHoldsTheWord :
    let s := hosting [.assertRst] (holding ⟨.ok, 0⟩ (offering 0x3000 (writing 3 0x05)))
    (outputs s).cmdReady = false ∧ s.cmd = some 0x3000 ∧ ∃ t, step s = .next t :=
  ⟨by decide, by decide, _, rfl⟩

theorem test_witness_OneResponsePerCommandHeldUntilTaken :
    let s := offering 0x3000 (answering [.rst (.answered false true)] (reading 0 0 0x00 false [0x01]))
    Ready s ∧ s.cmd = some 0x3000 ∧ ∃ t, step s = .next t :=
  ⟨by decide, by decide, _, rfl⟩

theorem test_witness_OneResponsePerCommandHeldUntilTaken_take :
    let s := hosting [.take] (holding ⟨.ok, 5⟩ State.reset)
    s.rsp = some ⟨.ok, 5⟩ ∧ s.host = .take :: [] ∧ ∃ t, step s = .next t :=
  ⟨by decide, by decide, _, rfl⟩

theorem test_witness_HostIssuesAWordInThreeSteps :
    let s := hosting [.raise 0x6000, .take] (writing 3 0x05)
    Ready s ∧ s.cmd = none ∧ s.host = .raise 0x6000 :: .take :: [] ∧
      (issue 0x6000 s).map (fun p => p.1) = some ⟨.ok, 5⟩ := by decide

theorem test_witness_WaitingBlockHoldsItsState :
    let s := holding ⟨.ok, 0⟩ (offering 0x6000 (writing 3 0x05))
    s.host = [] ∧ (Ready s → s.cmd = none) := by decide

theorem test_witness_ChannelConnectedOnlyBetweenReadSessions :
    let s := hosting [.connect [0x01]] (reading 0 0 0x00 false [0x12])
    let u := hosting [.connect [0x01]] (writing 3 0x05)
    (Ready s → s.cmd = none) ∧ s.host = .connect [0x01] :: [] ∧ s.lc ≠ .idle ∧ s.mode = .read ∧
      (Ready u → u.cmd = none) ∧ u.host = .connect [0x01] :: [] ∧ (u.lc = .idle ∨ u.mode = .write) := by decide

theorem test_witness_ChecksInTheirOrder :
    let s := offering 0x3001 State.reset
    Ready s ∧ s.cmd = some 0x3001 ∧ decode 0x3001 = none := by decide

theorem test_witness_RefusedCommandsOnlyAnswer :
    check (.writeBit 0x32) (reading 0 0 0x00 false [0x55]) = some .errMode ∧
      Ready (offering 0xFFFF failedSession) ∧ (offering 0xFFFF failedSession).cmd = some 0xFFFF ∧
      decode 0xFFFF = none := by decide

theorem test_witness_FailedSessionOnlyCloses :
    failedSession.lc = .failed ∧ Instr.constructW ≠ .close ∧
      ∃ t, exec .close failedSession = .next t :=
  ⟨by decide, by decide, _, rfl⟩

theorem test_witness_ConstructOpensASession :
    State.reset.lc = .idle ∧ isConstruct (.constructR 7) = true ∧ failedSession.lc = .failed ∧
      (writing 7 0x7F).lc = .opened ∧ (1#3) ≠ 0 ∧ (7#3) ≠ 0 := by decide

theorem test_witness_PopFollowsTheReadPort :
    let s := reading 0 0 0x00 false [0x12]
    let e := reading 0 0 0x00 false []
    ((rdPort s).valid = true ∧ (rdPort s).err = false ∧ (rdPort s).eos = false ∧ rstAtAccess s = false) ∧
      ((rdPort e).valid = true ∧ (rdPort e).err = false ∧ (rdPort e).eos = true ∧ rstAtAccess e = false) ∧
      ((rdPort (answering [.err true] s)).valid = true ∧ (rdPort (answering [.err true] s)).err = true ∧
        rstAtAccess (answering [.err true] s) = false) ∧
      ((rdPort (answering [.never] s)).valid = false ∧ rstAtAccess (answering [.never] s) = false) ∧
      (rstAtAccess (answering [.rst (.answered false true)] s) = true ∧ (rdPort (answering [.rst (.answered false true)] s)).valid = true) ∧
      (rstAtAccess (answering [.rst .waiting] s) = true ∧ (rdPort (answering [.rst .waiting] s)).valid = false) ∧
      (rstAtAccess (answering [.rst (.answered true true)] s) = true ∧
        (rdPort (answering [.rst (.answered true true)] s)).err = true) := by decide

theorem test_witness_ProbeNeverChangesTheChannel :
    let s := reading 0 0 0x00 false [0x12]
    ((rdPort s).valid = true ∧ (rdPort s).err = false ∧ rstAtAccess s = false) ∧
      ((rdPort (answering [.err true] s)).valid = true ∧ (rdPort (answering [.err true] s)).err = true ∧
        rstAtAccess (answering [.err true] s) = false) ∧
      ((rdPort (answering [.never] s)).valid = false ∧ rstAtAccess (answering [.never] s) = false) ∧
      rstAtAccess (answering [.rst (.answered false true)] s) = true := by decide

theorem test_witness_PushAppendsTheByte :
    let s := writing 7 0x7F
    ((wrPort s).ready = true ∧ (wrPort s).err = false ∧ rstAtAccess s = false) ∧
      ((wrPort (answering [.err true] s)).ready = true ∧ (wrPort (answering [.err true] s)).err = true ∧
        rstAtAccess (answering [.err true] s) = false) ∧
      ((wrPort (answering [.never] s)).ready = false ∧ rstAtAccess (answering [.never] s) = false) ∧
      rstAtAccess (answering [.rst (.answered false true)] s) = true := by decide

theorem test_witness_EachChannelOnlyInItsMode_illegal :
    let s := offering 0x1001 (reading 0 0 0x00 false [0x55])
    Ready s ∧ s.cmd = some 0x1001 ∧ decode 0x1001 = none ∧ ∃ t, step s = .next t :=
  ⟨by decide, by decide, by decide, _, rfl⟩

theorem test_witness_EachChannelOnlyInItsMode :
    ∃ t, exec .close (writing 3 0x05) = .next t ∧ decide (t.accesses = [.push 0xA0]) = true :=
  next_of_goesOn (by decide)

theorem test_witness_AccessesPerCommandAreBounded :
    ∃ t, exec (.readNbits 9) (reading 0 0 0x00 false [0xDE, 0xAD]) = .next t ∧
      decide (t.accesses = [.pop, .probe, .pop, .probe]) = true :=
  next_of_goesOn (by decide)

theorem test_witness_WriteBitPlacesTheBit :
    let s := writing 6 0x3F
    Writing s ∧ s.boff.val ≤ 6 ∧ (7 : Fin 9).val = s.boff.val + 1 := by decide

theorem test_witness_WriteBitFlushesTheEighthBit :
    let s := writing 7 0x58
    Writing s ∧ s.boff.val = 7 ∧ s.answer = .ok ∧ 0xB0 = BitVec.ofNat 8 (2 * s.acc.toNat + false.toNat) := by decide

theorem test_witness_WriteBitFailsOrStops :
    let s := answering [.err true] (writing 7 0x58)
    let u := answering [.never] (writing 7 0x58)
    Writing s ∧ s.boff.val = 7 ∧ 0xB0 = BitVec.ofNat 8 (2 * s.acc.toNat + false.toNat) ∧ s.answer = .err true ∧
      Writing u ∧ u.boff.val = 7 ∧ u.answer = .never := by decide

theorem test_witness_WriteBitFrame :
    ∃ t, exec (.writeBit 0x31) (answering [.err true] (writing 7 0x7F)) = .next t ∧
      decide (t.rst = false ∧ t.lc = .failed) = true :=
  next_of_goesOn (by decide)

theorem test_witness_BitsPackMostSignificantFirst :
    let s := writing 0 0x00
    Ready s ∧ Writing s ∧ s.acc = 0 ∧ s.boff = 0 ∧ AllOk s ∧
      ([true, false, true] : List Bool).length ≤ 7 ∧ (List.replicate 8 true).length = 8 ∧
      (List.replicate 16 true).length % 8 = 0 := by decide

theorem test_witness_BitstringIsItsWriteBits :
    let s := writing 7 0x7F
    Ready s ∧ Writing s ∧ CountOk s ∧ AllOk s ∧ (0x32#8) ≠ 0x30 ∧ (0x32#8) ≠ 0x31 ∧
      (writeBitstring [0x31, 0x32] s).map (fun p => p.1) = some .errSymbol ∧
      (writeBitstring [0x31, 0x30] s).map (fun p => p.1) = some .ok ∧
      Ready (reading 0 0 0x00 false [0x55]) ∧ Reading (reading 0 0 0x00 false [0x55]) := by decide

theorem test_witness_BitstringUndoesNothing :
    (writeBitstring [0x31, 0x30] (writing 7 0x7F)).map (fun p => p.1) = some .ok ∧
      (writeBitstring [0x30, 0x31] (answering [.err true] (writing 6 0x3F))).map (fun p => p.1) = some .errIo ∧
      (writeBitstring [0x31, 0x30, 0x32] (writing 7 0x7F)).map (fun p => p.1) = some .errSymbol := by decide

theorem test_witness_ExtractTakesTheTopUnreadBit :
    1 ≤ (reading 0 1 0x01 true []).boff.val ∧ 1 ≤ (reading 0 8 0xFF true []).boff.val := by decide

theorem test_witness_EndTestMeansNoDataBitRemains :
    let s := reading 5 5 0x00 true []
    Inv s ∧ Reading s ∧ s.last = true :=
  ⟨⟨by decide, by decide, by decide, by decide, by decide, by decide, by decide, by decide,
    no_response_data rfl⟩, by decide, by decide⟩

theorem test_witness_ReadBitTakesABufferedBit :
    let s := reading 0 1 0x01 true []
    let u := reading 7 8 0xFF true []
    Reading s ∧ atEnd s = false ∧ s.boff.val = (0 : Fin 9).val + 1 ∧
      Reading u ∧ atEnd u = false ∧ u.boff.val = (7 : Fin 9).val + 1 := by decide

theorem test_witness_ReadBitRefillsTheAccumulator :
    let s := reading 7 0 0x00 false [0x80]
    Reading s ∧ s.last = false ∧ s.boff = 0 ∧ s.chIn = 0x80 :: [] ∧ s.answer = .ok ∧
      s.chan.tail.headD .ok = .ok := by decide

theorem test_witness_EndOfDataIsANormalAnswer :
    Reading (reading 7 7 0x00 true []) ∧ atEnd (reading 7 7 0x00 true []) = true ∧
      (reading 7 7 0x00 true []).last = true ∧
      (let s := reading 7 0 0x00 false []
       Reading s ∧ ((Instr.readBit = .readBit ∧ s.boff = 0) ∨ Instr.readBit = .readByte) ∧ s.last = false ∧
         s.chIn = [] ∧ s.answer = .ok) := by decide

theorem test_witness_ReadAccessFails :
    let s := reading 7 0 0x00 false [0x80]
    ((Instr.readBit = .readBit ∧ s.boff = 0) ∨ Instr.readBit = .readByte) ∧ Reading s ∧ s.last = false ∧
      (answering [.err true] s).answer = .err true ∧ s.chIn = 0x80 :: [] ∧
      (answering [.ok, .err false] s).answer = .ok ∧
      (answering [.ok, .err false] s).chan.tail.headD .ok = .err false ∧
      (answering [.never] s).answer = .never ∧ (answering [.ok, .never] s).answer = .ok ∧
      (answering [.ok, .never] s).chan.tail.headD .ok = .never := by decide

theorem test_witness_EndOfDataIsStable :
    let s := reading 0 0 0x00 false []
    let is := [Instr.readBit, .readByte, .readNbits 64, .constructW, .writeBit 0x30]
    s.rst = false ∧ (∀ i ∈ is, i.wf = true ∧ i ≠ .close) ∧
      ∃ t, exec .readBit s = .next t ∧ decide (t.rsp = some ⟨.eod, 0⟩) = true :=
  ⟨by decide, by decide, next_of_goesOn (by decide)⟩

theorem test_witness_ReadByteReturnsTheNextByte :
    let s := reading 7 3 0x05 false [0x12]
    Reading s ∧ s.last = false ∧ s.chIn = 0x12 :: [] ∧ s.answer = .ok ∧ s.chan.tail.headD .ok = .ok := by decide

theorem test_witness_ReadNbitsReturnsTheNextDataBits :
    let s := reading 3 2 0x02 false [0xDE, 0xA8]
    Inv s ∧ Reading s ∧ AllOk s ∧ (15 ≤ 64 ∧ 15 ≤ (dataBits s).length) ∧ (16 ≤ 64 ∧ (dataBits s).length < 16) :=
  ⟨⟨by decide, by decide, by decide, by decide, by decide, by decide, by decide, by decide,
    no_response_data rfl⟩, by decide, by decide, by decide, by decide⟩

theorem test_witness_ReadBitServesTheDataBitsInOrder :
    let s := reading 7 0 0x00 false [0x80]
    let u := reading 7 7 0x00 true []
    Inv s ∧ Reading s ∧ AllOk s ∧ dataBits s = [true] ∧ Inv u ∧ Reading u ∧ AllOk u ∧ dataBits u = [] :=
  ⟨⟨by decide, by decide, by decide, by decide, by decide, by decide, by decide, by decide,
    no_response_data rfl⟩, by decide, by decide, by decide,
   ⟨by decide, by decide, by decide, by decide, by decide, by decide, by decide, by decide,
    no_response_data rfl⟩, by decide, by decide, by decide⟩

theorem test_witness_ReadNbitsIsRepeatedReadBit :
    let s := answering [.ok, .ok, .err false] (reading 0 0 0x00 false [0x11, 0x22])
    Ready s ∧ Reading s ∧ answer (exec (.readNbits 8) s) = some (.ok, 0x11) ∧
      ((issueAll (words (List.replicate 8 .readBit)) s).bind fun p => issue (encode .readBit) p.2).map
        (fun p => p.1) = some ⟨.errIo, 0⟩ := by decide

theorem test_witness_ReadCommandsFrame :
    ∃ t, exec (.readNbits 9) (answering [.ok, .ok, .err true] (reading 0 0 0x00 false [0x11, 0x22])) = .next t ∧
      decide (t.rst = false ∧ t.lc = .failed) = true :=
  next_of_goesOn (by decide)

theorem test_witness_PadAloneSaysWhereTheDataEnds :
    let s := { State.reset with chIn := [0xFF] }
    Ready s ∧ s.lc = .idle ∧ AllOk s ∧ s.chIn ≠ [] ∧ 1 = 8 * s.chIn.length - (7#3).toNat := by decide

theorem test_witness_CloseFlushesThePartialByte :
    let s := writing 7 0x7F
    let u := answering [.err true] (writing 1 0x01)
    Writing s ∧ 1 ≤ s.boff.val ∧ 0xFE = BitVec.ofNat 8 (s.acc.toNat * 2 ^ (8 - s.boff.val)) ∧ s.answer = .ok ∧
      Writing u ∧ 1 ≤ u.boff.val ∧ 0x80 = BitVec.ofNat 8 (u.acc.toNat * 2 ^ (8 - u.boff.val)) ∧
      u.answer = .err true := by decide

theorem test_witness_CloseWithNothingToFlush :
    let s := reading 7 7 0x00 true []
    let u := writing 0 0x00
    s.lc = .opened ∧ (s.mode = .write → s.boff = 0) ∧ u.lc = .opened ∧ (u.mode = .write → u.boff = 0) := by decide

theorem test_witness_SessionCommandsFrame :
    ∃ t, exec .close (writing 3 0x05) = .next t ∧ decide (t.rst = false) = true :=
  next_of_goesOn (by decide)

theorem test_witness_WriteSessionPaddingLaw :
    Ready State.reset ∧ State.reset.lc = .idle ∧ AllOk State.reset := by decide

theorem test_witness_WrittenBitsReadBack :
    let r := { State.reset with chIn := [0xA0] }
    Ready State.reset ∧ State.reset.lc = .idle ∧ AllOk State.reset ∧ Ready r ∧ r.lc = .idle ∧ AllOk r ∧
      (∀ i ∈ [Instr.readBit, .readByte, .readNbits 1, .readNbits 64], asksForData i = true) ∧
      (issueAll (words (.constructW :: writeBits [true, false, true] ++ [.close])) State.reset).map
        (fun p => p.2.chOut) = some [0xA0] := by decide

theorem test_witness_ClosedSessionIsOver :
    failedSession.lc ≠ .idle ∧ (∃ t, exec .close failedSession = .next t) ∧ State.reset.lc = .idle ∧
      isConstruct .close = false ∧ isConstruct .constructW = true :=
  ⟨by decide, ⟨_, rfl⟩, by decide, by decide, by decide⟩

theorem test_witness_ResetDuringACommandAbandonsIt :
    let s := answering [.rst (.answered false true)] (reading 0 0 0x00 false [0x12])
    let p := answering [.ok, .rst .waiting] (reading 0 0 0x00 false [0x12])
    ((Instr.readBit = .readBit ∧ s.boff = 0) ∨ Instr.readBit = .readByte) ∧ s.rst = false ∧ Reading s ∧
      s.last = false ∧ s.answer = .rst (.answered false true) ∧ Reading p ∧ p.last = false ∧ p.chIn = 0x12 :: [] ∧ p.answer = .ok ∧
      p.chan.tail.headD .ok = .rst .waiting ∧ ∃ t, exec .readBit s = .next t ∧ decide (t.rst = true) = true :=
  ⟨by decide, by decide, by decide, by decide, by decide, by decide, by decide, by decide, by decide, by decide,
    next_of_goesOn (by decide)⟩

theorem test_witness_ResetDuringACommandAbandonsIt_nbits :
    let s := answering [.ok, .ok, .rst (.answered false true)] (reading 7 0 0x00 false [0x12, 0x34])
    Reading s ∧ s.last = false ∧ s.boff = 0 ∧ s.chIn = [0x12] ++ [0x34] ∧ ([0x34] : List Byte) ≠ [] ∧
      8 * ([0x12] : List Byte).length < 9 ∧ 9 ≤ 64 ∧
      s.chan = List.replicate (2 * ([0x12] : List Byte).length) .ok ++ .rst (.answered false true) :: [] := by decide

theorem test_witness_ResetDuringACommandAbandonsIt_write :
    let s := answering [.rst (.answered false true)] (writing 7 0x58)
    let u := answering [.rst .waiting] (writing 1 0x01)
    let v := hosting [.assertRst] (holding ⟨.ok, 5⟩ State.reset)
    (Writing s ∧ s.boff.val = 7 ∧ s.answer = .rst (.answered false true) ∧
      0xB0 = BitVec.ofNat 8 (2 * s.acc.toNat + false.toNat)) ∧
      (Writing u ∧ 1 ≤ u.boff.val ∧ u.answer = .rst .waiting) ∧ v.rsp = some ⟨.ok, 5⟩ ∧
      v.host = .assertRst :: [] := by decide

theorem test_witness_ResetDuringACommandAbandonsIt_ports :
    let s := writing 7 0x58
    answering [.rst .waiting] s = { s with chan := .rst .waiting :: [] } ∧
      answering [.rst (.answered true false)] s = { s with chan := .rst (.answered true false) :: [] } ∧
      answering [.rst (.answered true true)] s = { s with chan := .rst (.answered true true) :: [] } := by decide

theorem test_witness_AnsweredCommandsComplete :
    let s := answering [.ok, .err true] (reading 0 0 0x00 false [0x12])
    CountOk s ∧ AllAnswered s := by decide

end Sys2Proof.Tests
end

section
/-! SUPPORT. How a command ends, said once: the one-bit step and the READ_NBITS loop where they are done, what a command that
is carried out has done to the session, and the ways a command can come to its end (30_encoding.md R52, 60_exceptions.md
R87, 70_reset_and_hazards.md R101). -/

namespace Sys2Proof.Machine

open Sys2Proof

variable {i : Instr} {s t u : State}

theorem LC.eq_opened {l : LC} (hi : l ≠ .idle) (hf : l ≠ .failed) : l = .opened := by
  cases l with
  | idle => exact absurd rfl hi
  | opened => rfl
  | failed => exact absurd rfl hf

/-! ### The one-bit step and the loop where they are done (R74, R78) -/

theorem bind_eq_done {α β : Type} {r : Result α} {k : α → State → Result β} {b : β}
    (h : r.bind k = .done b t) : ∃ a u, r = .done a u ∧ k a u = .done b t := by
  cases r with
  | done a u => exact ⟨a, u, rfl, h⟩
  | failed u => cases h
  | abandoned u => cases h
  | silent => cases h

/-- A one-bit step that is done: what it gives and the state it leaves (R72 to R74). -/
inductive BitStep (s : State) : BitRead → State → Prop
  | atEnd (he : atEnd s = true) : BitStep s .eod s
  | buffered (he : Machine.atEnd s = false) (hb : s.boff.val ≠ 0) : BitStep s (.bit (extract s).1) (extract s).2
  | empty (hl : s.last = false) (hb : s.boff.val = 0) (hi : s.chIn = []) :
      BitStep s .eod ((s.access .pop).setLast true)
  | refill {b : Byte} {bs : List Byte} (hl : s.last = false) (hb : s.boff.val = 0) (hi : s.chIn = b :: bs) :
      BitStep s (.bit (extract (refilled b bs s)).1) (extract (refilled b bs s)).2

theorem refill_done {r : BitRead} (hl : s.last = false) (hb : s.boff.val = 0) (h : refill s = .done r t) :
    BitStep s r t := by
  obtain ⟨_, hi, e⟩ | ⟨b, bs, _, hi, _, e⟩ | ⟨_, _, _, _, _, _, e⟩ | ⟨_, _, _, _, _, _, e⟩ | ⟨_, _, _, _, _, e⟩ |
    ⟨_, _, e⟩ | ⟨_, _, e⟩ | ⟨_, e⟩ := refill_cases s <;> rw [e] at h <;> cases h
  · exact .empty hl hb hi
  · exact .refill hl hb hi

theorem rb_done {r : BitRead} (h : rb s = .done r t) : BitStep s r t := by
  obtain ⟨he, e⟩ | ⟨he, hb, e⟩ | ⟨hl, hb, e⟩ := rb_cases s <;> rw [e] at h
  · cases h
    exact .atEnd he
  · cases h
    exact .buffered he hb
  · exact refill_done hl hb h

/-- One-bit steps in a row. -/
abbrev BitSteps : State → State → Prop := Relation.ReflTransGen fun s t => ∃ r, BitStep s r t

theorem gather_done {n : Nat} {v : Data} {o : Option Data} (h : gather n v s = .done o t) : BitSteps s t := by
  induction n generalizing v s with
  | zero =>
    cases h
    exact .refl
  | succ n ih =>
    obtain ⟨r, u, hr, hk⟩ := bind_eq_done h
    have hu : ∃ r, BitStep s r u := ⟨r, rb_done hr⟩
    cases r with
    | bit b => exact .head hu (ih hk)
    | eod =>
      cases hk
      exact .single hu

theorem BitStep.move {r : BitRead} (h : BitStep s r t) : ReadMove s t := by
  cases h with
  | atEnd _ => exact .refl s
  | buffered _ _ => exact readMove_extract s
  | empty _ _ _ => exact readMove_setLast_pop _ _
  | refill _ _ hi => exact (readMove_refilled hi).trans (readMove_extract _)

theorem BitSteps.move (h : BitSteps s t) : ReadMove s t := by
  induction h with
  | refl => exact .refl s
  | tail _ hs ih =>
    obtain ⟨_, hs⟩ := hs
    exact ih.trans hs.move

/-! ### What a command that is carried out does -/

/-- The command is a READ_BIT or a READ_NBITS, made of one-bit steps (R74, R78). -/
abbrev ReadsBits (i : Instr) : Prop := i = .readBit ∨ ∃ n, i = .readNbits n

/-- The accumulator with one more bit, and BOFF at the count that gives (R68). -/
def placed (sym : Byte) (k : Fin 9) (s : State) : State := { s with acc := placeBit (symBit sym) s.acc, boff := k }

/-- What a command that stays in its session has done when its response is loaded: nothing, or its part of the
session. -/
inductive Effect (s : State) : Instr → State → Prop
  | nothing (i : Instr) : Effect s i s
  | placed {sym : Byte} {k : Fin 9} (hw : Writing s) (hk : k.val = s.boff.val + 1) (h6 : s.boff.val ≤ 6) :
      Effect s (.writeBit sym) (placed sym k s)
  | flushed {sym : Byte} (hw : Writing s) (h7 : s.boff.val = 7) :
      Effect s (.writeBit sym) (emptyAcc (((placed sym 8 s).access (.push (placeBit (symBit sym) s.acc))).append
        (placeBit (symBit sym) s.acc)))
  | bits {i : Instr} {u : State} (hi : ReadsBits i) (hr : Reading s) (h : BitSteps s u) : Effect s i u
  | byteEmpty (hr : Reading s) (hl : s.last = false) (hc : s.chIn = []) :
      Effect s .readByte ((s.access .pop).setLast true)
  | byteRead {b : Byte} {bs : List Byte} (hr : Reading s) (hl : s.last = false) (hc : s.chIn = b :: bs) :
      Effect s .readByte (heldProbed b bs s)

/-- The command pushes this byte from this state: WRITE_BIT at the eighth bit, CLOSE with bits left in ACC (R68, R80). -/
def Pushes (i : Instr) (s : State) (b : Byte) : Prop :=
  Writing s ∧
    ((∃ sym, i = .writeBit sym ∧ s.boff.val = 7 ∧ b = placeBit (symBit sym) s.acc) ∨
      (i = .close ∧ 1 ≤ s.boff.val ∧ b = finalByte s))

/-- The command is a Read command (R36). -/
abbrev IsRead (i : Instr) : Prop := i = .readBit ∨ i = .readByte ∨ ∃ n, i = .readNbits n

/-- What a command leaves as it was until it ends, and all it can have done to the channels (R36). -/
structure Frame (i : Instr) (s t : State) : Prop where
  lc : t.lc = s.lc
  mode : t.mode = s.mode
  pad : t.pad = s.pad
  rsp : t.rsp = s.rsp
  rst : t.rst = s.rst
  cmd : t.cmd = s.cmd
  host : t.host = s.host
  taken : t.taken = s.taken
  draws : t.draws = s.draws
  chIn : t.chIn = s.chIn ∨ IsRead i ∧ t.chIn <:+ s.chIn
  chOut : t.chOut = s.chOut ∨ ∃ b, Pushes i s b ∧ t.chOut = s.chOut ++ [b]

theorem Frame.refl (i : Instr) (s : State) : Frame i s s :=
  ⟨rfl, rfl, rfl, rfl, rfl, rfl, rfl, rfl, rfl, .inl rfl, .inl rfl⟩

theorem ReadMove.frame (hi : IsRead i) (h : ReadMove s t) : Frame i s t :=
  ⟨h.lc, h.mode, h.pad, h.rsp, h.rst, h.cmd, h.host, h.taken, h.draws, .inr ⟨hi, h.chIn⟩, .inl h.chOut⟩

theorem frame_placed (i : Instr) (sym : Byte) (k : Fin 9) (s : State) : Frame i s (placed sym k s) :=
  ⟨rfl, rfl, rfl, rfl, rfl, rfl, rfl, rfl, rfl, .inl rfl, .inl rfl⟩

/-- A push of the command's byte, its transfer made or not. -/
theorem frame_pushMoved {b : Byte} (m : Bool) (hb : Pushes i s b) (h : Frame i s t) (ho : t.chOut = s.chOut) :
    Frame i s ((t.access (.push b)).pushMoved m b) := by
  refine ⟨by simp [h.lc], by simp [h.mode], by simp [h.pad], by simp [h.rsp], by simp [h.rst], by simp [h.cmd],
    by simp [h.host], by simp [h.taken], by simp [h.draws], by simpa using h.chIn, ?_⟩
  cases m with
  | false => exact .inl ho
  | true => exact .inr ⟨b, hb, by simp [ho]⟩

theorem pushes_writeBit {sym : Byte} (hw : Writing s) (h7 : s.boff.val = 7) :
    Pushes (.writeBit sym) s (placeBit (symBit sym) s.acc) :=
  ⟨hw, .inl ⟨sym, rfl, h7, rfl⟩⟩

theorem ReadsBits.isRead (h : ReadsBits i) : IsRead i := by
  obtain h | h := h
  · exact .inl h
  · exact .inr (.inr h)

theorem Effect.frame (h : Effect s i u) : Frame i s u := by
  cases h with
  | nothing => exact .refl i s
  | placed _ _ _ => exact frame_placed _ _ _ s
  | flushed hw h7 =>
    exact ⟨rfl, rfl, rfl, rfl, rfl, rfl, rfl, rfl, rfl, .inl rfl, .inr ⟨_, pushes_writeBit hw h7, rfl⟩⟩
  | bits hi _ h => exact h.move.frame hi.isRead
  | byteEmpty _ _ _ => exact (readMove_setLast_pop _ _).frame (.inr (.inl rfl))
  | byteRead _ _ hc => exact (readMove_heldProbed hc).frame (.inr (.inl rfl))

/-! ### How a command ends -/

/-- A failed access of this command leaves the session FAILED: CLOSE releases it all the same, and CONSTRUCT makes no access
(R65, R80, R87). -/
abbrev FailsSession (i : Instr) : Prop := IsRead i ∨ ∃ sym, i = .writeBit sym

/-- The ways in which a command comes to its end: it answers in its session, CONSTRUCT opens one, a failed access leaves it
FAILED, CLOSE releases it, or a reset cuts the command short (R12, R65, R80, R87, R101). -/
inductive Ends (i : Instr) (s : State) : State → Prop
  | answered {u : State} {st : Status} {d : Data} (he : Effect s i u) (hd : st ≠ .ok → d = 0) :
      Ends i s (u.load st d)
  | opened {mode : Mode} {pad : BitVec 3} (hi : isConstruct i = true) (hl : s.lc = .idle)
      (hp : mode = .write → pad = 0) : Ends i s ((openSession mode pad s).load .ok 0)
  | ioFailed {u : State} (hi : FailsSession i) (hl : s.lc = .opened) (hf : Frame i s u) :
      Ends i s ((failedRegs u).load .errIo 0)
  | released {u : State} {st : Status} {d : Data} (hi : i = .close) (hl : s.lc ≠ .idle) (hf : Frame i s u)
      (hd : st ≠ .ok → d = 0) : Ends i s ((idleRegs u).load st d)
  | abandoned {u : State} (hl : s.lc = .opened) (hf : Frame i s u) : Ends i s (resetEdge u)

theorem ends_writeBit {sym : Byte} (hw : Writing s) (h : writeBitBody (symBit sym) s = .next t) :
    Ends (.writeBit sym) s t := by
  have hp (m : Bool) (h7 : s.boff.val = 7) :=
    frame_pushMoved m (pushes_writeBit (sym := sym) hw h7) (frame_placed _ sym 8 s) rfl
  obtain ⟨k, hk, h6, e⟩ | ⟨h7, _, e⟩ | ⟨m, h7, _, e⟩ | ⟨m, h7, _, e⟩ | ⟨_, _, e⟩ | ⟨_, e⟩ :=
    writeBitBody_cases (symBit sym) s <;> rw [e] at h <;> cases h
  · exact .answered (.placed hw hk h6) (by simp)
  · exact .answered (.flushed hw h7) (by simp)
  · exact .ioFailed (.inr ⟨sym, rfl⟩) hw.1 (hp m h7)
  · exact .abandoned hw.1 (hp m.moved h7)

/-- A command made of one-bit steps: they are done and it answers, or an access fails, or a reset cuts it short. -/
theorem ends_finish {α : Type} {r : Result α} {k : α → State → Out} (hi : ReadsBits i) (hr : Reading s)
    (hm : r.on (ReadMove s)) (hd : ∀ a u, r = .done a u → BitSteps s u)
    (hk : ∀ a u, ∃ st d, k a u = .next (u.load st d) ∧ (st ≠ .ok → d = 0)) (h : r.finish k = .next t) :
    Ends i s t := by
  obtain ⟨a, u, e, hn⟩ | ⟨u, e, rfl⟩ | ⟨u, e, rfl⟩ := finish_next h
  · obtain ⟨st, d, hs, h0⟩ := hk a u
    cases hn.symm.trans hs
    exact .answered (.bits hi hr (hd a u e)) h0
  · rw [e] at hm
    exact .ioFailed (.inl hi.isRead) hr.1 (hm.frame hi.isRead)
  · rw [e] at hm
    exact .abandoned hr.1 (hm.frame hi.isRead)

theorem ends_readBit (hr : Reading s) (h : readBitBody s = .next t) : Ends .readBit s t := by
  refine ends_finish (.inl rfl) hr (rb_move s) (fun r _ e => .single ⟨r, rb_done e⟩) (fun r u => ?_) h
  cases r with
  | bit b => exact ⟨.ok, bitData b, rfl, by simp⟩
  | eod => exact ⟨.eod, 0, rfl, by simp⟩

theorem ends_readNbits {n : Nat} (hr : Reading s) (h : readNbitsBody n s = .next t) : Ends (.readNbits n) s t := by
  refine ends_finish (.inr ⟨n, rfl⟩) hr (gather_move n 0 s) (fun _ _ e => gather_done e) (fun r u => ?_) h
  cases r with
  | some v => exact ⟨.ok, v, rfl, by simp⟩
  | none => exact ⟨.eod, 0, rfl, by simp⟩

theorem ends_readByte (hr : Reading s) (h : readByteBody s = .next t) : Ends .readByte s t := by
  have hf {u : State} (hm : ReadMove s u) : Frame .readByte s u := hm.frame (.inr (.inl rfl))
  obtain ⟨_, e⟩ | ⟨hl, ⟨_, hc, e⟩ | ⟨b, bs, _, hc, _, e⟩ | ⟨b, bs, _, _, hc, _, e⟩ | ⟨b, bs, _, _, hc, _, e⟩ |
    ⟨_, _, _, _, _, e⟩ | ⟨_, _, e⟩ | ⟨_, _, e⟩ | ⟨_, e⟩⟩ := readByteBody_cases s <;> rw [e] at h <;> cases h
  · exact .answered (.nothing _) (by simp)
  · exact .answered (.byteEmpty hr hl hc) (by simp)
  · exact .answered (.byteRead hr hl hc) (by simp)
  · exact .ioFailed (.inl (.inr (.inl rfl))) hr.1 (hf ((readMove_held hc).trans (readMove_probe _)))
  · exact .abandoned hr.1 (hf ((readMove_held hc).trans (readMove_probe _)))
  · exact .ioFailed (.inl (.inr (.inl rfl))) hr.1 (hf (readMove_popMoved _ s))
  · exact .abandoned hr.1 (hf (readMove_popMoved _ s))

theorem ends_close (hl : s.lc ≠ .idle) (h : closeBody s = .next t) : Ends .close s t := by
  have hp (m : Bool) (hf : s.lc ≠ .failed) (hm : s.mode = .write) (hb : s.boff.val ≠ 0) :
      s.lc = .opened ∧ Frame .close s ((s.access (.push (finalByte s))).pushMoved m (finalByte s)) := by
    have ho : s.lc = .opened := LC.eq_opened hl hf
    exact ⟨ho, frame_pushMoved m ⟨⟨ho, hm⟩, .inr ⟨rfl, by omega, rfl⟩⟩ (.refl _ s) rfl⟩
  obtain ⟨_, e⟩ | ⟨_, _, e⟩ | ⟨hf, hm, hb, ⟨_, e⟩ | ⟨m, _, e⟩ | ⟨m, _, e⟩ | ⟨_, e⟩⟩ := closeBody_cases s <;>
    rw [e] at h <;> cases h
  · exact .released rfl hl (.refl _ s) (by simp)
  · exact .released rfl hl (.refl _ s) (by simp)
  · exact .released rfl hl (hp true hf hm hb).2 (by simp)
  · exact .released rfl hl (hp m hf hm hb).2 (by simp)
  · exact .abandoned (hp m.moved hf hm hb).1 (hp m.moved hf hm hb).2

/-- Every command that answers a next state ends in one of these ways. -/
theorem exec_ends (h : exec i s = .next t) : Ends i s t := by
  obtain ⟨st, _, rfl⟩ | ⟨_, h⟩ := exec_next h
  · exact .answered (.nothing i) (by simp)
  · cases i with
    | constructR pad =>
      obtain ⟨hl, rfl⟩ := h
      exact .opened rfl hl (by simp)
    | constructW =>
      obtain ⟨hl, rfl⟩ := h
      exact .opened rfl hl (by simp)
    | writeBit sym =>
      obtain ⟨hw, _, hb⟩ := h
      exact ends_writeBit hw hb
    | readBit => exact ends_readBit h.1 h.2
    | readByte => exact ends_readByte h.1 h.2
    | readNbits n =>
      obtain ⟨hr, _, hb⟩ := h
      exact ends_readNbits hr hb
    | close => exact ends_close h.1 h.2

end Sys2Proof.Machine
end

section
/-! SUPPORT. The accumulator of a read step and the registers across a step. -/

namespace Sys2Proof.Machine

open Sys2Proof

variable {i : Instr} {s t u : State}

/-! ### The accumulator (R18, R72) -/

@[simp] theorem refilled_acc (b : Byte) (bs : List Byte) (s : State) : (refilled b bs s).acc = b := rfl
@[simp] theorem refilled_boff (b : Byte) (bs : List Byte) (s : State) : (refilled b bs s).boff = 8 := rfl
@[simp] theorem refilled_last (b : Byte) (bs : List Byte) (s : State) :
    (refilled b bs s).last = decide (bs = []) := rfl
@[simp] theorem refilled_chIn (b : Byte) (bs : List Byte) (s : State) : (refilled b bs s).chIn = bs := rfl

@[simp] theorem heldProbed_acc (b : Byte) (bs : List Byte) (s : State) : (heldProbed b bs s).acc = b := rfl
@[simp] theorem heldProbed_boff (b : Byte) (bs : List Byte) (s : State) : (heldProbed b bs s).boff = 0 := rfl
@[simp] theorem heldProbed_last (b : Byte) (bs : List Byte) (s : State) :
    (heldProbed b bs s).last = decide (bs = []) := rfl
@[simp] theorem heldProbed_chIn (b : Byte) (bs : List Byte) (s : State) : (heldProbed b bs s).chIn = bs := rfl

@[simp] theorem boffDown_val (k : Fin 9) : (boffDown k).val = k.val - 1 := rfl

/-- ACC holds nothing above its BOFF unread bits (I3, R27). -/
abbrev AccFits (s : State) : Prop := s.acc.toNat < 2 ^ s.boff.val

/-- Clearing the top one of `k + 1` bits leaves `k`. -/
theorem toNat_clear_lt {a : Byte} {k : Nat} (hk : k < 8) (h : a.toNat < 2 ^ (k + 1)) :
    (a &&& ~~~(0x01#8 <<< k)).toNat < 2 ^ k := by
  refine Nat.lt_pow_two_of_testBit _ fun j hj => ?_
  rw [BitVec.testBit_toNat]
  obtain rfl | hlt := Nat.eq_or_lt_of_le hj
  · simp [hk]
  · have : a.getLsbD j = false := Nat.testBit_lt_two_pow (h.trans_le (Nat.pow_le_pow_right (by omega) hlt))
    simp [this]

theorem extract_accFits (hb : s.boff.val ≠ 0) (h : AccFits s) : AccFits (extract s).2 := by
  have hk := s.boff.isLt
  have e : s.boff.val - 1 + 1 = s.boff.val := by omega
  exact toNat_clear_lt (by omega) (by rwa [e])

theorem extract_refilled_accFits (b : Byte) (bs : List Byte) (s : State) : AccFits (extract (refilled b bs s)).2 :=
  extract_accFits (by simp) (by simpa using b.isLt)

/-- One more bit at the bottom of the accumulator (R68). -/
theorem placed_accFits {sym : Byte} {k : Fin 9} (h : AccFits s) (hk : k.val = s.boff.val + 1) :
    AccFits (placed sym k s) := by
  have hb := (symBit sym).toNat_le
  simp only [AccFits] at h
  simp only [AccFits, placed, placeBit_toNat, hk, Nat.pow_succ]
  omega

/-! ### The registers across a step -/

theorem regs_eq_iff : regs t = regs s ↔
    t.lc = s.lc ∧ t.mode = s.mode ∧ t.acc = s.acc ∧ t.boff = s.boff ∧ t.pad = s.pad ∧ t.last = s.last := by
  simp [regs]

@[simp] theorem regs_load (st : Status) (d : Data) (s : State) : regs (s.load st d) = regs s := rfl
@[simp] theorem regs_idleRegs (s : State) : regs (idleRegs s) = idleValues := rfl
@[simp] theorem regs_resetEdge (s : State) : regs (resetEdge s) = idleValues := rfl

theorem lc_of_regs_idle (h : regs s = idleValues) : s.lc = .idle := congrArg Regs.lc h

/-- A step keeps the registers, or is a reset edge, or runs a command (R64, R99, R100). -/
theorem step_regs (h : step s = .next t) :
    regs t = regs s ∨ (regs t = idleValues ∧ t.rst = true) ∨
      ∃ w i, Ready s ∧ s.cmd = some w ∧ decode w = some i ∧ exec i { s with cmd := none } = .next t := by
  obtain h | ⟨_, _, _, _, rfl⟩ | ⟨_, h⟩ := step_cases h
  · exact .inr (.inr h)
  · exact .inl rfl
  · obtain ⟨_, rfl⟩ | ⟨_, _, _, _, rfl⟩ | ⟨_, _, rfl⟩ | ⟨_, _, rfl⟩ | ⟨_, _, rfl⟩ | ⟨_, _, _, _, rfl⟩ :=
      hostMove_cases h
    · exact .inl rfl
    · exact .inl rfl
    · exact .inl rfl
    · exact .inr (.inl ⟨rfl, rfl⟩)
    · exact .inl rfl
    · exact .inl rfl

end Sys2Proof.Machine
end

section
/-! SUPPORT. The invariant (10_state.md R27), kept by everything a command can do. -/

namespace Sys2Proof

open Sys2Proof.Machine

variable {i : Instr} {s t u : State}

theorem inv_reset : Inv State.reset where
  boff_le _ := by decide
  write_regs h := by cases h
  read_acc h := by cases h
  idle_regs _ := rfl
  look_ahead h := by cases h
  last_empty h := by cases h
  write_pad h := by cases h
  rst_idle h := by cases h
  rsp_data _ h := by cases h

/-- The invariant reads nothing but the registers, IN, `rst` and the response. -/
theorem Inv.of_regs (h : Inv s) (hr : regs t = regs s) (hc : t.chIn = s.chIn)
    (hx : t.rst = true → t.lc = .idle ∧ t.rsp = none) (hd : ∀ r, t.rsp = some r → r.status ≠ .ok → r.data = 0) :
    Inv t := by
  obtain ⟨hl, hm, ha, hb, hp, hs⟩ := regs_eq_iff.1 hr
  constructor
  · simpa [hl, hb] using h.boff_le
  · simpa [hl, hm, ha, hb, hp, hs] using h.write_regs
  · simpa [hl, hm, ha, hb] using h.read_acc
  · simpa [hl, hr] using h.idle_regs
  · simpa [hl, hm, ha, hb, hs, hc] using h.look_ahead
  · simpa [hl, hs, hc] using h.last_empty
  · simpa [hm, hp] using h.write_pad
  · exact hx
  · exact hd

theorem Inv.load {st : Status} {d : Data} (h : Inv s) (hx : s.rst = false) (hd : st ≠ .ok → d = 0) :
    Inv (s.load st d) := by
  refine h.of_regs rfl rfl (by simp [hx]) fun r hr => ?_
  cases hr
  exact hd

/-- A session that is not open is bound by I4 and by PAD = 0 in Write mode alone. -/
theorem inv_of_not_opened (ho : s.lc ≠ .opened) (hi : s.lc = .idle → regs s = idleValues)
    (hp : s.mode = .write → s.pad = 0) (hx : s.rst = true → s.lc = .idle ∧ s.rsp = none)
    (hd : ∀ r, s.rsp = some r → r.status ≠ .ok → r.data = 0) : Inv s where
  boff_le hf := by
    have hl : s.lc = .idle := by_contra fun h => ho (LC.eq_opened h hf)
    have hb : s.boff = 0 := congrArg Regs.boff (hi hl)
    simp [hb]
  write_regs h := absurd h ho
  read_acc h := absurd h ho
  idle_regs := hi
  look_ahead h := absurd h ho
  last_empty h := absurd h ho
  write_pad := hp
  rst_idle := hx
  rsp_data := hd

theorem inv_resetEdge (s : State) : Inv (resetEdge s) :=
  inv_of_not_opened (by simp) (by simp) (by simp) (by simp) (by simp)

theorem inv_released {st : Status} {d : Data} (hx : s.rst = false) (hd : st ≠ .ok → d = 0) :
    Inv ((idleRegs s).load st d) :=
  inv_of_not_opened (by simp) (by simp) (by simp) (by simp [hx]) (by simpa using hd)

theorem inv_ioFailed (hx : s.rst = false) (hp : s.mode = .write → s.pad = 0) :
    Inv ((failedRegs s).load .errIo 0) :=
  inv_of_not_opened (by simp) (by simp) (by simpa using hp) (by simp [hx]) (by simp)

theorem inv_opened {mode : Mode} {pad : BitVec 3} (hx : s.rst = false) (hp : mode = .write → pad = 0) :
    Inv ((openSession mode pad s).load .ok 0) where
  boff_le _ := by simp
  write_regs _ hm := by simpa using hp hm
  read_acc _ _ := .inr (by simp)
  idle_regs h := by cases h
  look_ahead _ _ _ := .inl (by simp)
  last_empty _ h := by cases h
  write_pad := hp
  rst_idle h := by simp [hx] at h
  rsp_data r h := by cases h; simp

/-- An open Write session after an update of ACC and BOFF. -/
theorem Inv.writing (h : Inv s) (hw : Writing s) (hf : Frame i s t) (hl : t.last = s.last) (hb : t.boff.val ≤ 7)
    (ha : AccFits t) : Inv t := by
  obtain ⟨ho, hm⟩ := hw
  obtain ⟨_, hp, hn⟩ := h.write_regs ho hm
  have hmt := hf.mode.trans hm
  have hot := hf.lc.trans ho
  exact
    { boff_le := fun _ => hb
      write_regs := fun _ _ => ⟨ha, hf.pad.trans hp, hl.trans hn⟩
      read_acc := fun _ hr => by simp [hmt] at hr
      idle_regs := fun hi => by simp [hot] at hi
      look_ahead := fun _ hr => by simp [hmt] at hr
      last_empty := fun _ hs => by simp [hl, hn] at hs
      write_pad := fun _ => hf.pad.trans hp
      rst_idle := by simpa [hf.rst, hf.lc, hf.rsp] using h.rst_idle
      rsp_data := by simpa [hf.rsp] using h.rsp_data }

/-- An open Read session after an update of ACC, BOFF, LAST and IN. -/
theorem Inv.reading (h : Inv s) (hr : Reading s) (hf : ReadMove s t) (hb : t.boff.val ≤ 7)
    (ha : AccFits t ∨ t.boff.val = 0) (hl : t.last = false → (t.boff.val = 0 ∧ t.acc = 0) ∨ t.chIn ≠ [])
    (he : t.last = true → t.chIn = []) : Inv t := by
  have hmt := hf.mode.trans hr.2
  have hot := hf.lc.trans hr.1
  exact
    { boff_le := fun _ => hb
      write_regs := fun _ hw => by simp [hmt] at hw
      read_acc := fun _ _ => ha
      idle_regs := fun hi => by simp [hot] at hi
      look_ahead := fun _ _ => hl
      last_empty := fun _ => he
      write_pad := fun hw => by simp [hmt] at hw
      rst_idle := by simpa [hf.rst, hf.lc, hf.rsp] using h.rst_idle
      rsp_data := by simpa [hf.rsp] using h.rsp_data }

/-- With unread bits in ACC and LAST = 0 the channel still holds the byte of the look-ahead (I5). -/
theorem Inv.chIn_ne_nil (h : Inv s) (hr : Reading s) (hb : s.boff.val ≠ 0) (hl : s.last = false) : s.chIn ≠ [] := by
  obtain ⟨h0, _⟩ | hc := h.look_ahead hr.1 hr.2 hl
  · exact absurd h0 hb
  · exact hc

theorem bitStep_inv {r : BitRead} (hs : BitStep s r t) (h : Inv s) (hr : Reading s) : Inv t := by
  have hm := hs.move
  have h7 : s.boff.val ≤ 7 := h.boff_le (by simp [hr.1])
  have ha := h.read_acc hr.1 hr.2
  cases hs with
  | atEnd _ => exact h
  | buffered _ hb =>
    refine h.reading hr hm (by simp; omega) (.inl (extract_accFits hb (ha.resolve_right hb))) ?_
      (h.last_empty hr.1)
    exact fun hl => .inr (h.chIn_ne_nil hr hb hl)
  | empty _ hb hi => exact h.reading hr hm h7 ha (by simp) fun _ => hi
  | @refill b bs _ _ _ =>
    exact h.reading hr hm (by simp) (.inl (extract_refilled_accFits b bs s)) (by simp) (by simp)

theorem bitSteps_inv (hs : BitSteps s t) (h : Inv s) (hr : Reading s) : Inv t := by
  induction hs with
  | refl => exact h
  | tail hu hs ih =>
    obtain ⟨_, hs⟩ := hs
    have hm := BitSteps.move hu
    exact bitStep_inv hs ih ⟨hm.lc.trans hr.1, hm.mode.trans hr.2⟩

theorem effect_inv (he : Effect s i u) (h : Inv s) : Inv u := by
  have hf := he.frame
  cases he with
  | nothing => exact h
  | placed hw hk h6 =>
    refine h.writing hw hf rfl ?_ (placed_accFits (h.write_regs hw.1 hw.2).1 hk)
    simp only [placed]
    omega
  | flushed hw h7 => exact h.writing hw hf rfl (by simp) (by simp)
  | bits _ hr hs => exact bitSteps_inv hs h hr
  | byteEmpty hr _ hc =>
    exact h.reading hr (readMove_setLast_pop _ s) (h.boff_le (by simp [hr.1])) (h.read_acc hr.1 hr.2) (by simp)
      fun _ => hc
  | byteRead hr _ hc =>
    exact h.reading hr (readMove_heldProbed hc) (by simp) (.inr (by simp))
      (fun hl => .inr (by simpa using hl)) (by simp)

/-- Every command keeps the invariant, however it ends. -/
theorem exec_inv (h : Inv s) (hx : s.rst = false) (hn : exec i s = .next t) : Inv t := by
  cases exec_ends hn with
  | answered he hd => exact (effect_inv he h).load (he.frame.rst.trans hx) hd
  | opened _ _ hp => exact inv_opened hx hp
  | ioFailed _ _ hf => exact inv_ioFailed (hf.rst.trans hx) (by simpa [hf.mode, hf.pad] using h.write_pad)
  | released _ _ hf hd => exact inv_released (hf.rst.trans hx) hd
  | abandoned _ _ => exact inv_resetEdge _

/-- Connecting a channel changes IN only where the invariant says nothing of it (R37, R104). -/
theorem Inv.connect (h : Inv s) (hc : s.lc = .idle ∨ s.mode = .write) (bs : List Byte) (rest : List HostEvent) :
    Inv { s with host := rest, chIn := bs } where
  boff_le := h.boff_le
  write_regs := h.write_regs
  read_acc := h.read_acc
  idle_regs := h.idle_regs
  look_ahead ho hr := by
    obtain hc | hc := hc
    · exact absurd (ho.symm.trans hc) (by simp)
    · exact absurd (hr.symm.trans hc) (by simp)
  last_empty ho hl := by
    obtain hc | hc := hc
    · exact absurd (ho.symm.trans hc) (by simp)
    · exact absurd (hl.symm.trans (h.write_regs ho hc).2.2) (by simp)
  write_pad := h.write_pad
  rst_idle := h.rst_idle
  rsp_data := h.rsp_data

theorem hostMove_inv (h : Inv s) (hm : hostMove s = .next t) : Inv t := by
  obtain ⟨_, rfl⟩ | ⟨_, _, _, _, rfl⟩ | ⟨_, _, rfl⟩ | ⟨_, _, rfl⟩ | ⟨_, _, rfl⟩ | ⟨bs, rest, _, hc, rfl⟩ :=
    hostMove_cases hm
  · exact h
  · exact h.of_regs rfl rfl h.rst_idle h.rsp_data
  · exact h.of_regs rfl rfl (fun hx => ⟨(h.rst_idle hx).1, rfl⟩) (by simp)
  · exact inv_resetEdge _
  · exact h.of_regs rfl rfl (by simp) h.rsp_data
  · exact h.connect hc bs rest

theorem step_inv (h : Inv s) (hs : step s = .next t) : Inv t := by
  have hc : Inv { s with cmd := none } := h.of_regs rfl rfl h.rst_idle h.rsp_data
  obtain ⟨w, i, hr, _, _, he⟩ | ⟨w, hr, _, _, rfl⟩ | ⟨_, hm⟩ := step_cases hs
  · exact exec_inv hc (ready_iff.1 hr).1 he
  · exact hc.load (ready_iff.1 hr).1 (by simp)
  · exact hostMove_inv h hm

end Sys2Proof
end

section

/-- Settles O3: each way a step can end keeps the invariant. -/
theorem stepKeepsInvariant : Obligations.StepKeepsInvariant := by
  unfold Obligations.StepKeepsInvariant
  exact fun _ _ h hs => Sys2Proof.step_inv h hs

end

section
/-! SUPPORT. What one-bit steps and whole commands keep of the accumulator, of LAST and of the look-ahead (10_state.md R18,
R21, R27). -/

namespace Sys2Proof.Machine

open Sys2Proof

variable {i : Instr} {s t u : State}

/-- A session that is open before and after a command: the command did its part of it (R16, R65, R87). -/
theorem effect_of_opened (ho : s.lc = .opened) (hto : t.lc = .opened) (h : exec i s = .next t) :
    ∃ u st d, Effect s i u ∧ t = u.load st d := by
  cases exec_ends h with
  | answered he _ => exact ⟨_, _, _, he, rfl⟩
  | opened _ hl _ => simp [hl] at ho
  | ioFailed _ _ _ => cases hto
  | released _ _ _ _ => cases hto
  | abandoned _ _ => cases hto

/-- Outside an open session a command that answers in its session did nothing. -/
theorem Effect.eq_of_not_opened (he : Effect s i u) (h : s.lc ≠ .opened) : u = s := by
  cases he with
  | nothing => rfl
  | placed hw _ _ => exact absurd hw.1 h
  | flushed hw _ => exact absurd hw.1 h
  | bits _ hr _ => exact absurd hr.1 h
  | byteEmpty hr _ _ => exact absurd hr.1 h
  | byteRead hr _ _ => exact absurd hr.1 h

/-- CLOSE of an open or failed session leaves the registers idle, whatever happens to its push (R29, R80). -/
theorem regs_close (hl : s.lc ≠ .idle) (h : exec .close s = .next t) : regs t = idleValues := by
  rw [exec_close hl] at h
  obtain ⟨_, e⟩ | ⟨_, _, e⟩ | ⟨_, _, _, ⟨_, e⟩ | ⟨_, _, e⟩ | ⟨_, _, e⟩ | ⟨_, e⟩⟩ := closeBody_cases s <;>
    rw [e] at h <;> cases h <;> rfl

theorem not_reading_of_write (h : s.mode = .write) : ¬ Reading s := fun hr => by cases h.symm.trans hr.2

/-! ### The accumulator (I3) -/

/-- A one-bit step keeps ACC below 2^BOFF, and a refill makes it so. -/
theorem BitStep.accFits {r : BitRead} (hs : BitStep s r t) (h : AccFits s ∨ t.chIn ≠ s.chIn) : AccFits t := by
  cases hs with
  | atEnd _ => simpa using h
  | buffered _ hb => exact extract_accFits hb (by simpa using h)
  | empty _ _ _ => simpa using h
  | refill _ _ _ => exact extract_refilled_accFits _ _ s

theorem BitSteps.accFits (hs : BitSteps s t) (h : AccFits s ∨ t.chIn ≠ s.chIn) : AccFits t := by
  induction hs with
  | refl => simpa using h
  | @tail u v _ hs ih =>
    obtain ⟨_, hs⟩ := hs
    by_cases hc : v.chIn = u.chIn
    · exact hs.accFits (.inl (ih (by rwa [← hc])))
    · exact hs.accFits (.inr hc)

/-! ### The look-ahead (I5) -/

/-- With LAST = 0 the channel was not accessed since the count stood at `n` and nothing is buffered, or the channel holds a
byte. -/
abbrev LooksAhead (n : Nat) (s : State) : Prop :=
  s.last = false → (s.accesses.length = n ∧ s.boff = 0) ∨ s.chIn ≠ []

theorem BitStep.looksAhead {n : Nat} {r : BitRead} (hs : BitStep s r t) (h : LooksAhead n s) : LooksAhead n t := by
  cases hs with
  | atEnd _ => exact h
  | buffered _ hb =>
    intro hl
    obtain ⟨_, h0⟩ | hc := h hl
    · simp [h0] at hb
    · exact .inr hc
  | empty _ _ _ =>
    intro hl
    cases hl
  | refill _ _ _ => exact fun hl => .inr (by simpa using hl)

theorem BitSteps.looksAhead {n : Nat} (hs : BitSteps s t) (h : LooksAhead n s) : LooksAhead n t := by
  induction hs with
  | refl => exact h
  | tail _ hs ih =>
    obtain ⟨_, hs⟩ := hs
    exact hs.looksAhead ih

/-! ### LAST (R21) -/

theorem BitStep.last_true {r : BitRead} (hs : BitStep s r t) (h : s.last = true) : t.last = true := by
  cases hs with
  | atEnd _ => exact h
  | buffered _ _ => exact h
  | empty _ _ _ => rfl
  | refill hl _ _ => simp [hl] at h

theorem BitSteps.last_true (hs : BitSteps s t) (h : s.last = true) : t.last = true := by
  induction hs with
  | refl => exact h
  | tail _ hs ih =>
    obtain ⟨_, hs⟩ := hs
    exact hs.last_true ih

theorem Effect.last_true (he : Effect s i u) (h : s.last = true) : u.last = true := by
  cases he with
  | nothing => exact h
  | placed _ _ _ => exact h
  | flushed _ _ => exact h
  | bits _ _ hs => exact hs.last_true h
  | byteEmpty _ _ _ => rfl
  | byteRead _ hl _ => simp [hl] at h

/-- Only a Read session sets LAST. -/
theorem Effect.last_eq (he : Effect s i u) (h : ¬ Reading s) : u.last = s.last := by
  cases he with
  | nothing => rfl
  | placed _ _ _ => rfl
  | flushed _ _ => rfl
  | bits _ hr _ => exact absurd hr h
  | byteEmpty hr _ _ => exact absurd hr h
  | byteRead hr _ _ => exact absurd hr h

/-! ### The word of CLOSE -/

theorem fields_of_decode_close {w : Word} (h : decode w = some .close) : field w 12 4 = 6 ∧ field w 0 12 = 0 := by
  unfold decode at h
  split at h
  case h_6 h6 =>
    refine ⟨h6, ?_⟩
    by_contra h0
    simp [h0] at h
  all_goals
    repeat' split at h
    all_goals simp at h

/-- One word decodes to CLOSE (R56, R58). -/
theorem eq_of_decode_close {w : Word} (h : decode w = some .close) : w = encode .close := by
  have hw := w.isLt
  obtain ⟨h6, h0⟩ := fields_of_decode_close h
  simp only [field_eq] at h6 h0
  refine BitVec.eq_of_toNat_eq ?_
  simp only [encode, BitVec.toNat_ofNat]
  omega

end Sys2Proof.Machine
end

section

open Sys2Proof Sys2Proof.Machine

/-- Settles O4: a command that ends with LC = IDLE released the session, was cut short by a reset, or found LC = IDLE and
kept the registers. -/
theorem idleMeansEveryRegisterZero : Obligations.IdleMeansEveryRegisterZero := by
  unfold Obligations.IdleMeansEveryRegisterZero
  refine ⟨⟨rfl, rfl⟩, fun s t h hs hl => ?_, fun s t hl h => regs_close hl h⟩
  obtain hr | ⟨hr, _⟩ | ⟨w, i, _, _, _, hn⟩ := step_regs hs
  · rw [hr]
    exact h ((congrArg Regs.lc hr).symm.trans hl)
  · exact hr
  · cases exec_ends hn with
    | answered he _ =>
      have hi : s.lc = .idle := he.frame.lc.symm.trans hl
      rw [he.eq_of_not_opened (by simp [hi])]
      exact h hi
    | opened _ _ _ => cases hl
    | ioFailed _ _ _ => cases hl
    | released _ _ _ _ => rfl
    | abandoned _ _ => rfl

/-- Settles O5: bits leave the accumulator from the top, and a refill fills it with eight. -/
theorem readAccumulatorHoldsOnlyUnreadBits : Obligations.ReadAccumulatorHoldsOnlyUnreadBits := by
  unfold Obligations.ReadAccumulatorHoldsOnlyUnreadBits
  refine ⟨fun s t pad hl h => ?_, fun i s t hr hi ha h htr => ?_, fun i s t hr hi h htr hc => ?_⟩
  · cases (exec_constructR pad hl).symm.trans h
    exact Nat.one_pos
  · obtain ⟨u, st, d, he, rfl⟩ := effect_of_opened hr.1 htr.1 h
    cases he with
    | nothing => exact ha
    | placed hw _ _ => exact absurd hr (not_reading_of_write hw.2)
    | flushed hw _ => exact absurd hr (not_reading_of_write hw.2)
    | bits _ _ hs => exact hs.accFits (.inl ha)
    | byteEmpty _ _ _ => exact absurd rfl hi
    | byteRead _ _ _ => exact absurd rfl hi
  · obtain ⟨u, st, d, he, rfl⟩ := effect_of_opened hr.1 htr.1 h
    cases he with
    | nothing => exact absurd rfl hc
    | placed hw _ _ => exact absurd hr (not_reading_of_write hw.2)
    | flushed hw _ => exact absurd hr (not_reading_of_write hw.2)
    | bits _ _ hs => exact hs.accFits (.inr hc)
    | byteEmpty _ _ _ => simp at hi
    | byteRead _ _ _ => simp at hi

/-- Settles O6: every access that leaves LAST = 0 ends with a probe that saw a byte. -/
theorem lookAheadSawAByte : Obligations.LookAheadSawAByte := by
  unfold Obligations.LookAheadSawAByte
  refine ⟨fun s t pad hl h => ?_, fun n i s t hr _ hn h htr => ?_⟩
  · cases (exec_constructR pad hl).symm.trans h
    exact ⟨rfl, rfl⟩
  · obtain ⟨u, st, d, he, rfl⟩ := effect_of_opened hr.1 htr.1 h
    cases he with
    | nothing => exact hn
    | placed hw _ _ => exact absurd hr (not_reading_of_write hw.2)
    | flushed hw _ => exact absurd hr (not_reading_of_write hw.2)
    | bits _ _ hs => exact hs.looksAhead hn
    | byteEmpty _ _ _ =>
      intro hl
      cases hl
    | byteRead _ _ _ => exact fun hl => .inr (by simpa using hl)

/-- Settles O7: the lifecycle register moves by CONSTRUCT, a failed access, CLOSE and reset alone. -/
theorem lifecycleMovesOnlyAsNamed : Obligations.LifecycleMovesOnlyAsNamed := by
  unfold Obligations.LifecycleMovesOnlyAsNamed
  refine ⟨fun s t hs hne => ?_, fun s => by cases s.lc <;> decide⟩
  obtain hr | ⟨hr, hx⟩ | ⟨w, i, _, hw, hd, hn⟩ := step_regs hs
  · exact absurd (congrArg Regs.lc hr) hne
  · exact .inr (.inr (.inr ⟨lc_of_regs_idle hr, hx⟩))
  · cases exec_ends hn with
    | answered he _ => exact absurd he.frame.lc hne
    | opened hi hl _ => exact .inl ⟨hl, rfl, w, i, hw, hd, hi⟩
    | ioFailed _ hl _ => exact .inr (.inl ⟨hl, rfl, rfl⟩)
    | released hi _ _ _ =>
      subst hi
      exact .inr (.inr (.inl ⟨rfl, hw.trans (congrArg some (eq_of_decode_close hd))⟩))
    | abandoned _ _ => exact .inr (.inr (.inr ⟨rfl, rfl⟩))

/-- Settles O8: MODE and PAD are written only where a session opens or ends. -/
theorem modeAndPadFixedInASession : Obligations.ModeAndPadFixedInASession := by
  unfold Obligations.ModeAndPadFixedInASession
  intro s t hs hl htl
  obtain hr | ⟨hr, _⟩ | ⟨w, i, _, _, _, hn⟩ := step_regs hs
  · exact ⟨congrArg Regs.mode hr, congrArg Regs.pad hr⟩
  · exact absurd (lc_of_regs_idle hr) htl
  · cases exec_ends hn with
    | answered he _ => exact ⟨he.frame.mode, he.frame.pad⟩
    | opened _ hi _ => exact absurd hi hl
    | ioFailed _ _ hf => exact ⟨hf.mode, hf.pad⟩
    | released _ _ _ _ => exact absurd rfl htl
    | abandoned _ _ => exact absurd rfl htl

/-- Settles O9: a refill, which alone could clear LAST, needs LAST = 0. -/
theorem lastStaysSetInASession : Obligations.LastStaysSetInASession := by
  unfold Obligations.LastStaysSetInASession
  intro s t hs ho hto
  obtain hr | ⟨hr, _⟩ | ⟨w, i, _, _, _, hn⟩ := step_regs hs
  · have hl : t.last = s.last := congrArg Regs.last hr
    exact ⟨fun h => hl.trans h, fun _ => hl⟩
  · simp [lc_of_regs_idle hr] at hto
  · obtain ⟨u, st, d, he, rfl⟩ := effect_of_opened (s := { s with cmd := none }) ho hto hn
    exact ⟨fun h => he.last_true h, fun hm => he.last_eq (not_reading_of_write hm)⟩

end

section
/-! SUPPORT. The fields of the observation vector, and what every command puts on record (10_state.md R24, 20_memory.md
R47). -/

namespace Sys2Proof.Machine

open Sys2Proof

variable {i : Instr} {s t u : State}

/-! ### The fields of `status_o` -/

theorem statusO_lc (s : State) : (statusO s).extractLsb' 0 2 = lcCode s.lc := by
  ext j hj
  interval_cases j <;> simp [statusO]

theorem statusO_mode (s : State) : (statusO s).getLsbD 2 = decide (s.mode = .write) := by
  cases h : s.mode <;> simp [statusO, h, modeCode]

theorem statusO_boff (s : State) : ((statusO s).extractLsb' 3 4).toNat = s.boff.val := by
  have e : (statusO s).extractLsb' 3 4 = boffCode s.boff := by
    ext j hj
    interval_cases j <;> simp [statusO]
  have := s.boff.isLt
  rw [e, boffCode, BitVec.toNat_ofNat]
  omega

theorem statusO_pad (s : State) : (statusO s).extractLsb' 7 3 = s.pad := by
  ext j hj
  interval_cases j <;> simp [statusO]

theorem statusO_last (s : State) : (statusO s).getLsbD 10 = s.last := by
  simp [statusO]

theorem statusO_zero (s : State) : (statusO s).extractLsb' 11 5 = 0 := by
  ext j hj
  interval_cases j <;> simp [statusO]

theorem statusO_acc (s : State) : (statusO s).extractLsb' 16 8 = s.acc := by
  ext j hj
  interval_cases j <;> simp [statusO]

/-! ### The record of a command -/

theorem Records.mono {P Q : Access → BitVec 24 → Prop} (hpq : ∀ a w, P a w → Q a w) (h : Records P s t) :
    Records Q s t := by
  obtain ⟨new, ha, hs, hp⟩ := h
  exact ⟨new, ha, hs, fun p hm => hpq _ _ (hp p hm)⟩

/-- What `status_o` shows at an access of this command begun in `s`: the registers of a state `x` of the open session, as the
command has written them by then. -/
def ShownBy (i : Instr) (s : State) (a : Access) (w : BitVec 24) : Prop :=
  ∃ x : State, w = statusO x ∧ x.lc = .opened ∧ x.mode = s.mode ∧ x.pad = s.pad ∧
    (ReadsBits i → x.last = false ∧ (a = .pop ∧ x.boff = 0 ∨ a = .probe ∧ x.boff = 8)) ∧
    (∀ sym b, i = .writeBit sym → a = .push b → x.boff = 8 ∧ x.acc = b) ∧
    (i = .close → w = statusO s)

theorem ShownInRead.shownBy {a : Access} {w : BitVec 24} (ho : s.lc = .opened) (hi : ReadsBits i)
    (h : ShownInRead s a w) : ShownBy i s a w := by
  obtain ⟨x, hw, hl, hm, hp, hx⟩ := h
  refine ⟨x, hw, hl.trans ho, hm, hp, fun _ => hx, ?_, ?_⟩
  · rintro sym b rfl
    simp [ReadsBits] at hi
  · rintro rfl
    simp [ReadsBits] at hi

theorem records_readBit (hr : Reading s) (h : readBitBody s = .next t) : Records (ShownBy .readBit s) s t := by
  refine records_finish (Result.on_mono (fun _ hu => hu.mono fun _ _ => ShownInRead.shownBy hr.1 (.inl rfl))
    (rb_records (.refl s))) (fun r v e => ?_) h
  cases r <;> cases e <;> exact ⟨rfl, rfl⟩

theorem records_readNbits {n : Nat} (hr : Reading s) (h : readNbitsBody n s = .next t) :
    Records (ShownBy (.readNbits n) s) s t := by
  refine records_finish (Result.on_mono (fun _ hu => hu.mono fun _ _ => ShownInRead.shownBy hr.1 (.inr ⟨n, rfl⟩))
    (gather_records n 0 (.refl s))) (fun r v e => ?_) h
  cases r <;> cases e <;> exact ⟨rfl, rfl⟩

theorem records_readByte (hr : Reading s) (h : readByteBody s = .next t) : Records (ShownBy .readByte s) s t := by
  have hx {x : State} {a : Access} (hm : ReadMove s x) : ShownBy .readByte s a (statusO x) :=
    ⟨x, rfl, hm.lc.trans hr.1, hm.mode, hm.pad, by simp, by simp, by simp⟩
  have hp : Records (ShownBy .readByte s) s (s.access .pop) := records_access (hx (.refl s))
  have hq {b : Byte} {bs : List Byte} (hc : s.chIn = b :: bs) :
      Records (ShownBy .readByte s) s ((held b bs s).access .probe) :=
    (hp.keep (u := held b bs s) rfl rfl).trans (records_access (hx (readMove_held hc)))
  obtain ⟨_, e⟩ | ⟨_, ⟨_, _, e⟩ | ⟨_, _, _, hc, _, e⟩ | ⟨_, _, _, _, hc, _, e⟩ | ⟨_, _, _, _, hc, _, e⟩ |
    ⟨_, _, _, _, _, e⟩ | ⟨_, _, e⟩ | ⟨_, _, e⟩ | ⟨_, e⟩⟩ := readByteBody_cases s <;> rw [e] at h <;> cases h
  · exact (Records.refl _ s).keep rfl rfl
  · exact hp.keep rfl rfl
  · exact (hq hc).keep rfl rfl
  · exact (hq hc).keep rfl rfl
  · exact (hq hc).keep rfl rfl
  · exact hp.keep (by simp) (by simp)
  · exact hp.keep (by simp) (by simp)

theorem records_writeBit {sym : Byte} (hw : Writing s) (h : writeBitBody (symBit sym) s = .next t) :
    Records (ShownBy (.writeBit sym) s) s t := by
  have hp : Records (ShownBy (.writeBit sym) s) s ((placed sym 8 s).access (.push (placeBit (symBit sym) s.acc))) := by
    refine ((Records.refl _ s).keep rfl rfl).trans (records_access ⟨placed sym 8 s, rfl, hw.1, rfl, rfl, ?_, ?_, ?_⟩)
    · simp
    · rintro _ b _ hb
      exact ⟨rfl, Access.push.inj hb⟩
    · simp
  obtain ⟨_, _, _, e⟩ | ⟨_, _, e⟩ | ⟨_, _, _, e⟩ | ⟨_, _, _, e⟩ | ⟨_, _, e⟩ | ⟨_, e⟩ :=
    writeBitBody_cases (symBit sym) s <;> rw [e] at h <;> cases h
  · exact (Records.refl _ s).keep rfl rfl
  · exact hp.keep rfl rfl
  · exact hp.keep (by simp [placed]) (by simp [placed])
  · exact hp.keep (by simp [placed]) (by simp [placed])

theorem records_close (hl : s.lc ≠ .idle) (h : closeBody s = .next t) : Records (ShownBy .close s) s t := by
  have hp (hf : s.lc ≠ .failed) : Records (ShownBy .close s) s (s.access (.push (finalByte s))) := by
    exact records_access ⟨s, rfl, LC.eq_opened hl hf, rfl, rfl, by simp, by simp, fun _ => rfl⟩
  obtain ⟨_, e⟩ | ⟨_, _, e⟩ | ⟨hf, _, _, ⟨_, e⟩ | ⟨_, _, e⟩ | ⟨_, _, e⟩ | ⟨_, e⟩⟩ := closeBody_cases s <;>
    rw [e] at h <;> cases h
  · exact (Records.refl _ s).keep rfl rfl
  · exact (Records.refl _ s).keep rfl rfl
  · exact (hp hf).keep rfl rfl
  · exact (hp hf).keep (by simp) (by simp)
  · exact (hp hf).keep (by simp) (by simp)

/-- What every command puts on record (R24, R47). -/
theorem exec_records (h : exec i s = .next t) : Records (ShownBy i s) s t := by
  obtain ⟨_, _, rfl⟩ | ⟨_, h⟩ := exec_next h
  · exact (Records.refl _ s).keep rfl rfl
  · cases i with
    | constructR pad =>
      obtain ⟨_, rfl⟩ := h
      exact (Records.refl _ s).keep rfl rfl
    | constructW =>
      obtain ⟨_, rfl⟩ := h
      exact (Records.refl _ s).keep rfl rfl
    | writeBit sym =>
      obtain ⟨hw, _, hb⟩ := h
      exact records_writeBit hw hb
    | readBit => exact records_readBit h.1 h.2
    | readByte => exact records_readByte h.1 h.2
    | readNbits n =>
      obtain ⟨hr, _, hb⟩ := h
      exact records_readNbits hr hb
    | close => exact records_close h.1 h.2

/-- The ports of a command that ends show what it put on record, access by access. -/
theorem commandCycles_keys {new : List (Access × BitVec 24)} (h : exec i s = .next t)
    (ha : t.accesses = s.accesses ++ new.map Prod.fst) (hs : t.shown = s.shown ++ new.map Prod.snd) :
    (commandCycles i s).map PortCycle.key = new := by
  rw [commandCycles, commandAccesses_next h, recordedSince_eq ha hs, portTrace_keys]

end Sys2Proof.Machine
end

section

open Sys2Proof Sys2Proof.Machine

/-- Settles O10: each access shows the registers of the state it is made in. -/
theorem statusVectorShowsTheRegisters : Obligations.StatusVectorShowsTheRegisters := by
  unfold Obligations.StatusVectorShowsTheRegisters
  refine ⟨fun s => ⟨statusO_lc s, rfl, rfl, rfl, statusO_mode s, statusO_boff s, statusO_pad s, statusO_last s,
    statusO_zero s, statusO_acc s, fun _ => rfl⟩, fun i s t h => ?_⟩
  obtain ⟨new, ha, hs, hp⟩ := exec_records h
  refine ⟨new, ha, hs, commandCycles_keys h ha hs, fun p hm => ?_⟩
  obtain ⟨x, hw, ho, hmode, hpad, hread, hwrite, hclose⟩ := hp p hm
  rw [hw, statusO_lc, statusO_mode, statusO_boff, statusO_pad, statusO_last, statusO_acc, ho, hmode, hpad]
  refine ⟨rfl, rfl, rfl, fun hi => ?_, fun sym b hi hb => ?_, fun hi => hw.symm.trans (hclose hi)⟩
  · obtain ⟨hl, ⟨ha, h0⟩ | ⟨ha, h8⟩⟩ := hread hi
    · simp [ha, h0, hl]
    · simp [ha, h8, hl]
  · obtain ⟨h8, hacc⟩ := hwrite sym b hi hb
    simp [h8, hacc]

end

section
/-! SUPPORT. What a command answers, what the host's move is when no word can transfer, and the two commands that push
(30_encoding.md R52, 41_write.md R68, 43_close.md R80). -/

namespace Sys2Proof.Machine

open Sys2Proof

variable {i : Instr} {s t u : State}

/-! ### Responses and the host (R52, R99) -/

/-- A command leaves the port and the host's record alone and answers, unless a reset cuts it short (R52, R101). -/
theorem exec_answers (h : exec i s = .next t) :
    t.cmd = s.cmd ∧ t.taken = s.taken ∧
      ((t.rsp.isSome = true ∧ t.rst = s.rst) ∨ (t.rsp.isSome = false ∧ t.rst = true)) := by
  cases exec_ends h with
  | answered he _ => exact ⟨he.frame.cmd, he.frame.taken, .inl ⟨rfl, he.frame.rst⟩⟩
  | opened _ _ _ => exact ⟨rfl, rfl, .inl ⟨rfl, rfl⟩⟩
  | ioFailed _ _ hf => exact ⟨hf.cmd, hf.taken, .inl ⟨rfl, hf.rst⟩⟩
  | released _ _ hf _ => exact ⟨hf.cmd, hf.taken, .inl ⟨rfl, hf.rst⟩⟩
  | abandoned _ hf => exact ⟨hf.cmd, hf.taken, .inr ⟨rfl, rfl⟩⟩

/-- With no word to transfer the step is the host's. -/
theorem step_eq_hostMove (h : Ready s → s.cmd = none) : step s = hostMove s := by
  unfold step stepOnce
  by_cases hr : cmdReady s = true
  · simp [hr, h hr]
  · simp [hr]

theorem hostMove_cons {e : HostEvent} {rest : List HostEvent} (h : s.host = e :: rest) :
    hostMove s = hostEvent e { s with host := rest } := by
  simp [hostMove, h]

/-- A response not yet taken keeps the port closed (R51). -/
theorem not_ready_of_rsp {r : Response} (h : s.rsp = some r) : ¬ Ready s := by
  simp [ready_iff, h]

/-- A held response stays until the host takes it or a reset discards it (R52, R100). -/
theorem hostMove_rsp {r : Response} (hr : s.rsp = some r) (h : hostMove s = .next t) :
    (t.rsp = some r ∧ t.taken = s.taken) ∨ (t.rsp = none ∧ t.taken = s.taken ++ [r]) ∨
      (t.rsp = none ∧ t.taken = s.taken ∧ t.rst = true) := by
  obtain ⟨_, rfl⟩ | ⟨_, _, _, _, rfl⟩ | ⟨_, _, rfl⟩ | ⟨_, _, rfl⟩ | ⟨_, _, rfl⟩ | ⟨_, _, _, _, rfl⟩ :=
    hostMove_cases h
  · exact .inl ⟨hr, rfl⟩
  · exact .inl ⟨hr, rfl⟩
  · exact .inr (.inl ⟨rfl, by simp [hr]⟩)
  · exact .inr (.inr ⟨rfl, rfl, rfl⟩)
  · exact .inl ⟨hr, rfl⟩
  · exact .inl ⟨hr, rfl⟩

/-- After a reset edge `status_o` shows 0 (R100). -/
theorem statusO_resetEdge (s : State) : statusO (resetEdge s) = 0 := by
  simp [statusO, lcCode, modeCode, boffCode]

/-! ### The frame by kind of command (R36) -/

theorem not_pushes_of_isRead {b : Byte} (hi : IsRead i) : ¬ Pushes i s b := by
  obtain rfl | rfl | ⟨n, rfl⟩ := hi <;> simp [Pushes]

/-- A Read command never touches the write channel. -/
theorem Frame.chOut_of_isRead (hf : Frame i s t) (hi : IsRead i) : t.chOut = s.chOut :=
  hf.chOut.resolve_right fun ⟨_, hb, _⟩ => not_pushes_of_isRead hi hb

theorem Frame.chIn_suffix (hf : Frame i s t) : t.chIn <:+ s.chIn := by
  obtain h | ⟨_, h⟩ := hf.chIn
  · rw [h]
  · exact h

/-- Only a Read command touches the read channel. -/
theorem Frame.chIn_of_not_isRead (hf : Frame i s t) (hi : ¬ IsRead i) : t.chIn = s.chIn :=
  hf.chIn.resolve_right fun ⟨h, _⟩ => hi h

theorem Frame.chOut_writeBit {sym : Byte} (hf : Frame (.writeBit sym) s t) :
    t.chOut = s.chOut ∨ Writing s ∧ s.boff.val = 7 ∧ t.chOut = s.chOut ++ [placeBit (symBit sym) s.acc] := by
  obtain h | ⟨b, ⟨hw, ⟨sym', hs, h7, rfl⟩ | ⟨hc, _⟩⟩, h⟩ := hf.chOut
  · exact .inl h
  · cases hs
    exact .inr ⟨hw, h7, h⟩
  · cases hc

/-- CONSTRUCT never touches the write channel, CLOSE only by its final byte. -/
theorem Frame.chOut_session (hf : Frame i s t) (hi : isConstruct i = true ∨ i = .close) :
    t.chOut = s.chOut ∨ i = .close ∧ Writing s ∧ 1 ≤ s.boff.val ∧ t.chOut = s.chOut ++ [finalByte s] := by
  obtain h | ⟨b, ⟨hw, ⟨sym, rfl, _, _⟩ | ⟨hc, h1, rfl⟩⟩, h⟩ := hf.chOut
  · exact .inl h
  · simp [isConstruct] at hi
  · exact .inr ⟨hc, hw, h1, h⟩

theorem not_failsSession (hi : isConstruct i = true ∨ i = .close) : ¬ FailsSession i := by
  rintro ((rfl | rfl | ⟨n, rfl⟩) | ⟨sym, rfl⟩) <;> simp [isConstruct] at hi

theorem Effect.last_writeBit {sym : Byte} (he : Effect s (.writeBit sym) u) : u.last = s.last := by
  cases he with
  | nothing => rfl
  | placed _ _ _ => rfl
  | flushed _ _ => rfl
  | bits hi _ _ => simp [ReadsBits] at hi

/-! ### The two commands that push -/

theorem placeBit_eq_ofNat (b : Bool) (acc : Byte) : placeBit b acc = BitVec.ofNat 8 (2 * acc.toNat + b.toNat) :=
  BitVec.eq_of_toNat_eq (placeBit_toNat b acc)

theorem finalByte_eq_ofNat (s : State) : finalByte s = BitVec.ofNat 8 (s.acc.toNat * 2 ^ (8 - s.boff.val)) :=
  BitVec.eq_of_toNat_eq (by simp [finalByte, padCount, Nat.shiftLeft_eq])

/-- CLOSE with bits left in ACC is one push (R80). -/
theorem closeBody_flush (hw : Writing s) (hb : s.boff.val ≠ 0) :
    closeBody s = (chPush (finalByte s) s).finishWith (release .errIo 0) fun _ t =>
      release .ok (countData (padCount s.boff)) t := by
  simp only [closeBody, hw.1, hw.2, closeWrite, if_neg hb]

/-- WRITE_BIT at the eighth bit is one push (R68). -/
theorem writeBitBody_flush (b : Bool) (h7 : s.boff.val = 7) :
    writeBitBody b s = (chPush (placeBit b s.acc) { s with acc := placeBit b s.acc, boff := 8 }).finish fun _ u =>
      respond .ok 0 (emptyAcc u) := by
  have hu : boffUp s.boff = some 8 := by simp [boffUp, h7]
  simp [writeBitBody, hu]

/-- A full accumulator takes no more bits, and a flush may wait for ever; otherwise WRITE_BIT has a next state (R19, R41). -/
theorem writeBitBody_stops_iff (b : Bool) (s : State) :
    (∀ t, writeBitBody b s ≠ .next t) ↔ s.boff.val = 8 ∨ s.boff.val = 7 ∧ s.answer = .never := by
  obtain ⟨k, _, h6, e⟩ | ⟨h7, ha, e⟩ | ⟨m, h7, ha, e⟩ | ⟨m, h7, ha, e⟩ | ⟨h7, ha, e⟩ | ⟨h8, e⟩ :=
    writeBitBody_cases b s <;> rw [e]
  · simp
    omega
  · simp [h7, ha]
  · simp [h7, ha]
  · simp [h7, ha]
  · simp [h7, ha]
  · simp [h8]

end Sys2Proof.Machine
end

section

open Sys2Proof Sys2Proof.Machine

/-- Settles O19: a command answers or is cut short, and a held response moves only by the host. -/
theorem oneResponsePerCommandHeldUntilTaken : Obligations.OneResponsePerCommandHeldUntilTaken := by
  unfold Obligations.OneResponsePerCommandHeldUntilTaken
  refine ⟨fun s t w hr hw hs => ?_, fun s t r hr hs => ?_, fun s r rest hr hh => ?_⟩
  · have hx : s.rst = false := (ready_iff.1 hr).1
    obtain ⟨_, i, _, _, _, he⟩ | ⟨_, _, _, _, rfl⟩ | ⟨hn, _⟩ := step_cases hs
    · obtain ⟨hc, ht, ⟨hv, hrst⟩ | h⟩ := exec_answers he
      · exact ⟨hc, ht, .inl ⟨hv, hrst.trans hx⟩⟩
      · exact ⟨hc, ht, .inr h⟩
    · exact ⟨rfl, rfl, .inl ⟨rfl, hx⟩⟩
    · simp [hn hr] at hw
  · rw [step_eq_hostMove fun h => absurd h (not_ready_of_rsp hr)] at hs
    exact hostMove_rsp hr hs
  · rw [step_eq_hostMove fun h => absurd h (not_ready_of_rsp hr), hostMove_cons hh]
    exact ⟨_, rfl, rfl, by simp [hr], rfl, rfl, rfl⟩

/-- Settles O36: of the channels WRITE_BIT touches OUT alone, and of the registers ACC and BOFF unless its push fails. -/
theorem writeBitFrame : Obligations.WriteBitFrame := by
  unfold Obligations.WriteBitFrame
  intro s t sym h hx
  have hi : ¬ IsRead (.writeBit sym) := by simp [IsRead]
  cases exec_ends h with
  | answered he _ =>
    have hf := he.frame
    exact ⟨hf.mode, hf.pad, hf.chIn_of_not_isRead hi, hf.cmd, hf.host, hf.taken,
      .inl ⟨hf.lc, he.last_writeBit, hf.draws⟩, hf.chOut_writeBit⟩
  | opened hc _ _ => cases hc
  | ioFailed _ hl hf =>
    exact ⟨hf.mode, hf.pad, hf.chIn_of_not_isRead hi, hf.cmd, hf.host, hf.taken, .inr ⟨hl, rfl⟩, hf.chOut_writeBit⟩
  | released hc _ _ _ => cases hc
  | abandoned _ _ => cases hx

/-- Settles O41: with LAST = 1 the channel is empty, so that what remains is the accumulator's bits less the filler. -/
theorem endTestMeansNoDataBitRemains : Obligations.EndTestMeansNoDataBitRemains := by
  unfold Obligations.EndTestMeansNoDataBitRemains
  refine ⟨fun s => atEnd_iff, fun s h hr hl => ?_⟩
  have hc : s.chIn = [] := h.last_empty hr.1 hl
  have hlen : (dataBits s).length = s.boff.val - s.pad.toNat := by
    simp [dataBits, hc, streamBits, lowBits_length]
  rw [atEnd_iff, ← List.length_eq_zero_iff, hlen]
  simp [hl, Nat.sub_eq_zero_iff_le]

/-- Settles O51: of the channels the Read commands touch IN alone. -/
theorem readCommandsFrame : Obligations.ReadCommandsFrame := by
  unfold Obligations.ReadCommandsFrame
  intro i s t hi h hx
  cases exec_ends h with
  | answered he _ =>
    have hf := he.frame
    exact ⟨hf.mode, hf.pad, hf.chOut_of_isRead hi, hf.cmd, hf.host, hf.taken, hf.chIn_suffix, .inl ⟨hf.lc, hf.draws⟩⟩
  | opened hc _ _ => exact absurd (.inl hi) (not_failsSession (.inl hc))
  | ioFailed _ hl hf =>
    exact ⟨hf.mode, hf.pad, hf.chOut_of_isRead hi, hf.cmd, hf.host, hf.taken, hf.chIn_suffix, .inr ⟨hl, rfl⟩⟩
  | released hc _ _ _ => exact absurd (.inl hi) (not_failsSession (.inr hc))
  | abandoned _ _ => cases hx

/-- Settles O55: CONSTRUCT and CLOSE make no access but the final push. -/
theorem sessionCommandsFrame : Obligations.SessionCommandsFrame := by
  unfold Obligations.SessionCommandsFrame
  intro i s t hi h hx
  have hr : ¬ IsRead i := fun hr => not_failsSession hi (.inl hr)
  cases exec_ends h with
  | answered he _ =>
    have hf := he.frame
    exact ⟨hf.chIn_of_not_isRead hr, hf.cmd, hf.host, hf.taken, hf.draws, hf.chOut_session hi⟩
  | opened _ _ _ => exact ⟨rfl, rfl, rfl, rfl, rfl, .inl rfl⟩
  | ioFailed hc _ _ => exact absurd hc (not_failsSession hi)
  | released _ _ hf _ => exact ⟨hf.chIn_of_not_isRead hr, hf.cmd, hf.host, hf.taken, hf.draws, hf.chOut_session hi⟩
  | abandoned _ _ => cases hx

/-- Settles O1: the host's reset edge writes every register and leaves the channels alone. -/
theorem resetSetsEveryRegister : Obligations.ResetSetsEveryRegister := by
  unfold Obligations.ResetSetsEveryRegister
  refine ⟨⟨rfl, rfl, rfl, rfl, rfl, rfl⟩, fun s rest hr hh => ?_⟩
  rw [step_eq_hostMove hr, hostMove_cons hh]
  exact ⟨resetEdge { s with host := rest }, rfl, rfl, rfl, rfl, rfl, rfl, rfl, rfl, rfl, rfl, rfl,
    statusO_resetEdge _, rfl, rfl, rfl, rfl⟩

/-- Settles O2: every clause of the invariant is about an open session or holds of the reset values. -/
theorem resetStateMeetsInvariant : Obligations.ResetStateMeetsInvariant := by
  unfold Obligations.ResetStateMeetsInvariant
  exact ⟨inv_reset, rfl⟩

/-- Settles O35: a WRITE_BIT that passes its checks is its body, which at the eighth bit is one push. -/
theorem writeBitFailsOrStops : Obligations.WriteBitFailsOrStops := by
  unfold Obligations.WriteBitFailsOrStops
  have hbody {s : State} (b : Bool) (hw : Writing s) : exec (.writeBit (bitSym b)) s = writeBitBody b s := by
    simpa using exec_writeBit hw (symLegal_bitSym b)
  refine ⟨fun s b hw => ?_, fun s b byte hw h7 hb => ?_⟩
  · rw [hbody b hw, writeBitBody_stops_iff]
    simp [Fin.ext_iff]
  · rw [hbody b hw, writeBitBody_flush b h7, hb, ← placeBit_eq_ofNat]
    refine ⟨fun moved ha => ?_, fun ha => ?_⟩
    · rw [chPush_err (by exact ha)]
      exact ⟨_, rfl, rfl, by simp, by simp, rfl, by simp, by simp, by simp⟩
    · rw [chPush_never (by exact ha), finish_silent]

/-- Settles O53: the flush of CLOSE is one push, and the session is released whatever becomes of it. -/
theorem closeFlushesThePartialByte : Obligations.CloseFlushesThePartialByte := by
  unfold Obligations.CloseFlushesThePartialByte
  intro s byte hw h1 hb
  rw [exec_close (by simp [hw.1]), closeBody_flush hw (by omega), hb, ← finalByte_eq_ofNat]
  refine ⟨fun ha => ?_, fun moved ha => ?_⟩
  · rw [chPush_ok ha]
    rfl
  · rw [chPush_err ha]
    exact ⟨_, rfl, rfl, rfl, by simp, by simp, by simp⟩

end
section
/-! SUPPORT. The data bits a Read session still holds are a queue: a one-bit step takes the first, the READ_NBITS loop
takes several (20_memory.md R42, 42_read.md R73, R74, R78). -/

namespace Sys2Proof.Machine

open Sys2Proof

variable {s t u : State}

/-! ### Channels that do not fail -/

theorem allOk_of_suffix (h : AllOk s) (hc : t.chan <:+ s.chan) : AllOk t := fun a ha => h a (hc.subset ha)

/-- The second answer of a channel that does not fail. -/
theorem answer_second_of_allOk (h : AllOk s) : s.chan.tail.headD .ok = .ok :=
  answer_ok_of_allOk (s := s.access .pop) (allOk_of_suffix h (List.tail_suffix _))

/-- A refill that pops a byte goes on to its probe (R74). -/
theorem refill_ok_cons {b : Byte} {bs : List Byte} (ha : s.answer = .ok) (hi : s.chIn = b :: bs) :
    refill s = probeLoaded (popped b bs s) := by
  simp [refill, chPop_ok_cons ha hi, popped]

theorem refill_of_allOk (h : AllOk s) : ∃ r t, refill s = .done r t := by
  have h1 := answer_ok_of_allOk h
  have h2 := answer_second_of_allOk h
  cases hi : s.chIn with
  | nil => exact ⟨.eod, (s.access .pop).setLast true, by simp [refill, chPop_ok_nil h1 hi]⟩
  | cons b bs => exact ⟨_, _, (refill_ok_cons h1 hi).trans (probeLoaded_popped h2)⟩

theorem rb_of_allOk (h : AllOk s) : ∃ r t, rb s = .done r t := by
  obtain ⟨_, e⟩ | ⟨_, _, e⟩ | ⟨_, _, e⟩ := rb_cases s <;> rw [e]
  · exact ⟨_, _, rfl⟩
  · exact ⟨_, _, rfl⟩
  · exact refill_of_allOk h

theorem ReadMove.reading (h : ReadMove s t) (hr : Reading s) : Reading t := ⟨h.lc.trans hr.1, h.mode.trans hr.2⟩

/-! ### The queue (R73) -/

/-- The bits of the stream not yet read, filler among them: those of ACC, then the channel's. -/
def heldBits (s : State) : List Bool := lowBits s.acc s.boff.val ++ streamBits s.chIn

theorem dataBits_eq (s : State) : dataBits s = (heldBits s).take ((heldBits s).length - s.pad.toNat) := rfl

theorem heldBits_length (s : State) : (heldBits s).length = s.boff.val + 8 * s.chIn.length := by
  simp [heldBits, lowBits_length, streamBits_length]

theorem heldBits_extract (hb : s.boff.val ≠ 0) : heldBits s = (extract s).1 :: heldBits (extract s).2 := by
  obtain ⟨k, hk⟩ := Nat.exists_eq_succ_of_ne_zero hb
  have := s.boff.isLt
  simp [heldBits, extract, hk, lowBits, lowBits_clear s.acc k k (by omega) (Nat.le_refl k)]

theorem heldBits_refilled {b : Byte} {bs : List Byte} (hb : s.boff.val = 0) (hi : s.chIn = b :: bs) :
    heldBits (refilled b bs s) = heldBits s := by
  simp [heldBits, hb, hi, lowBits, streamBits_cons, byteBits]

/-- With more bits left than filler the accumulator's top bit is a data bit. -/
theorem dataBits_extract (hb : s.boff.val ≠ 0) (hp : s.pad.toNat < (heldBits s).length) :
    dataBits s = (extract s).1 :: dataBits (extract s).2 := by
  rw [heldBits_extract hb] at hp
  rw [dataBits_eq, dataBits_eq, heldBits_extract hb, extract_pad, List.length_cons, Nat.succ_sub (by simpa using hp)]
  rfl

/-- What a one-bit step says of the data bits: it gives the first and leaves the others, or finds none and sets LAST. -/
def Serves (s : State) : BitRead → State → Prop
  | .bit b, t => dataBits s = b :: dataBits t
  | .eod, t => dataBits s = [] ∧ dataBits t = [] ∧ t.last = true

theorem BitStep.serves {r : BitRead} (hs : BitStep s r t) (h : Inv s) (hr : Reading s) : Serves s r t := by
  have hpad := s.pad.isLt
  cases hs with
  | atEnd he =>
    have hl := (atEnd_iff.1 he).1
    have hd := (endTestMeansNoDataBitRemains.2 s h hr hl).1 he
    exact ⟨hd, hd, hl⟩
  | buffered he hb =>
    refine dataBits_extract hb ?_
    rw [heldBits_length]
    cases hl : s.last with
    | true =>
      have : s.pad.toNat < s.boff.val := by simpa [Machine.atEnd, hl] using he
      omega
    | false =>
      have := List.length_pos_of_ne_nil (h.chIn_ne_nil hr hb hl)
      omega
  | empty hl hb hi => simp [Serves, dataBits, hb, hi, lowBits, streamBits]
  | @refill b bs hl hb hi =>
    have hx : dataBits s = dataBits (refilled b bs s) := by
      rw [dataBits_eq, dataBits_eq, heldBits_refilled hb hi]
      rfl
    have hp : (refilled b bs s).pad.toNat < (heldBits (refilled b bs s)).length := by
      rw [heldBits_length, refilled_boff]
      exact Nat.lt_of_lt_of_le hpad (Nat.le_add_right _ _)
    exact hx.trans (dataBits_extract (by simp) hp)

/-- A Read session in which no access fails: the premises under which it is a queue of data bits. -/
structure Serving (s : State) : Prop where
  inv : Inv s
  reading : Reading s
  allOk : AllOk s

theorem Serving.rb (h : Serving s) : ∃ r t, rb s = .done r t ∧ Serves s r t ∧ Serving t := by
  obtain ⟨r, t, e⟩ := rb_of_allOk h.allOk
  have hs := rb_done e
  exact ⟨r, t, e, hs.serves h.inv h.reading,
    bitStep_inv hs h.inv h.reading, hs.move.reading h.reading, allOk_of_suffix h.allOk hs.move.chan⟩

/-- Asked for no more bits than are left, the loop gathers them in order (R78). -/
theorem Serving.gather_some {n : Nat} (h : Serving s) (hn : n ≤ (dataBits s).length) (v : Data) :
    ∃ t, gather n v s = .done (some (((dataBits s).take n).foldl appendBit v)) t ∧
      dataBits t = (dataBits s).drop n := by
  induction n generalizing v s with
  | zero => exact ⟨s, rfl, rfl⟩
  | succ n ih =>
    obtain ⟨r, u, e, hs, hu⟩ := h.rb
    cases r with
    | bit b =>
      have hd : dataBits s = b :: dataBits u := hs
      obtain ⟨t, et, ht⟩ := ih hu (by simpa [hd] using hn) (appendBit v b)
      exact ⟨t, by simp [gather, e, et, hd], by simpa [hd] using ht⟩
    | eod => simp [hs.1] at hn

/-- Asked for more bits than are left, the loop takes them all and finds the end of the data (R78, R88). -/
theorem Serving.gather_none {n : Nat} (h : Serving s) (hn : (dataBits s).length < n) (v : Data) :
    ∃ t, gather n v s = .done none t ∧ dataBits t = [] := by
  induction n generalizing v s with
  | zero => exact absurd hn (Nat.not_lt_zero _)
  | succ n ih =>
    obtain ⟨r, u, e, hs, hu⟩ := h.rb
    cases r with
    | bit b =>
      have hd : dataBits s = b :: dataBits u := hs
      obtain ⟨t, et, ht⟩ := ih hu (by simpa [hd] using hn) (appendBit v b)
      exact ⟨t, by simp [gather, e, et], ht⟩
    | eod => exact ⟨u, by simp [gather, e], hs.2.1⟩

/-! ### Gathered bits as a number (R78) -/

theorem bitData_eq_ite (b : Bool) : bitData b = if b then 1 else 0 := by cases b <;> rfl

theorem appendBit_toNat (v : Data) (b : Bool) (h : v.toNat < 2 ^ 63) :
    (appendBit v b).toNat = 2 * v.toNat + b.toNat := by
  have hb : (bitData b).toNat = b.toNat := by cases b <;> rfl
  have hor : 2 * v.toNat ||| b.toNat = 2 * v.toNat + b.toNat := or_eq_add (k := 1) b.toNat_lt
  rw [appendBit, BitVec.toNat_or, BitVec.toNat_shiftLeft, hb, Nat.shiftLeft_eq, Nat.mod_eq_of_lt (by omega),
    Nat.mul_comm, pow_one, hor]

theorem foldl_appendBit_toNat {k : Nat} (bits : List Bool) (v : Data) (hv : v.toNat < 2 ^ k)
    (hk : k + bits.length ≤ 64) :
    (bits.foldl appendBit v).toNat = bits.foldl (fun w b => 2 * w + b.toNat) v.toNat := by
  induction bits generalizing v k with
  | nil => rfl
  | cons b bits ih =>
    rw [List.length_cons] at hk
    have h63 : v.toNat < 2 ^ 63 := hv.trans_le (Nat.pow_le_pow_right (by decide) (by omega))
    have hb := b.toNat_le
    have e := appendBit_toNat v b h63
    have := ih (k := k + 1) (appendBit v b) (by rw [e, Nat.pow_succ]; omega) (by omega)
    rw [List.foldl_cons, List.foldl_cons, this, e]

end Sys2Proof.Machine
end

section

open Sys2Proof Sys2Proof.Machine

/-- Settles O48: the loop takes the data bits off the queue one by one. -/
theorem readNbitsReturnsTheNextDataBits : Obligations.ReadNbitsReturnsTheNextDataBits := by
  unfold Obligations.ReadNbitsReturnsTheNextDataBits
  refine ⟨fun s hr => exec_readNbits hr (by omega), fun s n hi hr ha hn => ?_⟩
  have h : Serving s := ⟨hi, hr, ha⟩
  have hm := gather_move n 0 s
  rw [exec_readNbits hr hn, readNbitsBody]
  obtain hlt | hle := Nat.lt_or_ge (dataBits s).length n
  · obtain ⟨u, e, hd⟩ := h.gather_none hlt 0
    rw [e] at hm ⊢
    exact ⟨_, rfl, hm.reading hr, hm.pad, hm.chOut, fun hle => by omega, fun _ => ⟨rfl, hd⟩⟩
  · obtain ⟨u, e, hd⟩ := h.gather_some hle 0
    rw [e] at hm ⊢
    refine ⟨_, rfl, hm.reading hr, hm.pad, hm.chOut, fun _ => ⟨⟨_, rfl, ?_⟩, hd⟩, fun hlt => by omega⟩
    have hlen : 0 + ((dataBits s).take n).length ≤ 64 := by
      rw [Nat.zero_add]
      exact (List.length_take_le n _).trans hn
    exact foldl_appendBit_toNat _ 0 (by decide) hlen

/-- Settles O49: READ_BIT is the one-bit step. -/
theorem readBitServesTheDataBitsInOrder : Obligations.ReadBitServesTheDataBitsInOrder := by
  unfold Obligations.ReadBitServesTheDataBitsInOrder
  intro s hi hr ha
  have h : Serving s := ⟨hi, hr, ha⟩
  obtain ⟨r, u, e, hs, hu⟩ := h.rb
  rw [exec_readBit hr, readBitBody, e]
  cases r with
  | bit b =>
    have hd : dataBits s = b :: dataBits u := hs
    rw [hd]
    refine ⟨fun c rest hc => ?_, by simp⟩
    cases hc
    exact ⟨_, rfl, by simp [bitData_eq_ite], rfl, hu.reading⟩
  | eod =>
    obtain ⟨hd, hdu, hl⟩ := hs
    rw [hd]
    exact ⟨by simp, fun _ => ⟨_, rfl, rfl, hdu, hu.reading, hl⟩⟩

end
section
/-! SUPPORT. How a Write session packs bits into bytes (20_memory.md R42, R43, 41_write.md R68, R69, 43_close.md
R80). -/

namespace Sys2Proof.Machine

open Sys2Proof

variable {s t u : State}

/-! ### Bits of a byte as lists and as numbers (R42) -/

/-- The accumulator after one more bit holds the old bits and then the new one (R68). -/
theorem lowBits_placeBit (b : Bool) (acc : Byte) {k : Nat} (hk : k ≤ 7) :
    lowBits (placeBit b acc) (k + 1) = lowBits acc k ++ [b] := by
  induction k with
  | zero => cases b <;> simp [lowBits, placeBit, bitByte]
  | succ k ih =>
    have hbit : (placeBit b acc).getLsbD (k + 1) = acc.getLsbD k := by
      cases b <;> simp [placeBit, bitByte] <;> omega
    rw [lowBits, hbit, ih (by omega), lowBits, List.cons_append]

theorem lowBits_shiftLeft_of_le (acc : Byte) {i j : Nat} (h : i ≤ j) :
    lowBits (acc <<< j) i = List.replicate i false := by
  induction i with
  | zero => rfl
  | succ i ih =>
    have hbit : (acc <<< j).getLsbD i = false := by
      have hlt : i < j := h
      rw [BitVec.getLsbD_shiftLeft]
      simp [hlt]
    rw [lowBits, hbit, ih (by omega), List.replicate_succ]

/-- Moved to the top of a byte, the accumulator's bits are followed by zeros (R43, R80). -/
theorem lowBits_shiftLeft (acc : Byte) {k j : Nat} (h : k + j ≤ 8) :
    lowBits (acc <<< j) (k + j) = lowBits acc k ++ List.replicate j false := by
  induction k with
  | zero => simpa [lowBits] using lowBits_shiftLeft_of_le acc (Nat.le_refl j)
  | succ k ih =>
    have hbit : (acc <<< j).getLsbD (k + j) = acc.getLsbD k := by
      have hlt : k + j < 8 := by omega
      rw [BitVec.getLsbD_shiftLeft]
      simp [hlt]
    rw [Nat.succ_add, lowBits, hbit, ih (by omega), lowBits, List.cons_append]

/-- The value of bits read on from a value `v`. -/
theorem foldl_bits (bits : List Bool) (v : Nat) :
    bits.foldl (fun w b => 2 * w + b.toNat) v = v * 2 ^ bits.length + bitsValue bits := by
  induction bits generalizing v with
  | nil => simp [bitsValue]
  | cons b bits ih =>
    rw [List.foldl_cons, bitsValue, List.foldl_cons, ih, ih (2 * 0 + b.toNat), List.length_cons, Nat.pow_succ]
    ring

theorem bitsValue_cons (b : Bool) (bits : List Bool) :
    bitsValue (b :: bits) = b.toNat * 2 ^ bits.length + bitsValue bits := by
  simpa [bitsValue] using foldl_bits bits b.toNat

theorem bitsValue_lowBits (b : Byte) (k : Nat) : bitsValue (lowBits b k) = b.toNat % 2 ^ k := by
  induction k with
  | zero => simp [lowBits, bitsValue, Nat.mod_one]
  | succ k ih =>
    rw [lowBits, bitsValue_cons, ih, lowBits_length, Nat.mod_pow_succ, ← Nat.toNat_testBit, BitVec.testBit_toNat]
    ring

theorem bitsValue_byteBits (b : Byte) : bitsValue (byteBits b) = b.toNat :=
  (bitsValue_lowBits b 8).trans (Nat.mod_eq_of_lt b.isLt)

/-! ### Packing -/

/-- An open Write session that takes bits: the port is ready, ACC and BOFF are in their range and no push fails. -/
structure Packing (s : State) : Prop where
  ready : Ready s
  writing : Writing s
  count : CountOk s
  acc : AccFits s
  allOk : AllOk s

/-- The bits in the accumulator that wait for their byte (R18). -/
def waitingBits (s : State) : List Bool := lowBits s.acc s.boff.val

/-- From `s` to `t` the session has taken these bits and pushed these bytes: the bits that waited and the bits taken are
those of the bytes and the bits that wait now. -/
structure Packed (s : State) (bits : List Bool) (bytes : List Byte) (t : State) : Prop where
  packing : Packing t
  chOut : t.chOut = s.chOut ++ bytes
  accesses : t.accesses = s.accesses ++ bytes.map .push
  stream : waitingBits s ++ bits = streamBits bytes ++ waitingBits t

theorem Packed.refl (h : Packing s) : Packed s [] [] s := ⟨h, by simp, by simp, by simp [streamBits]⟩

theorem Packed.trans {bits bits' : List Bool} {bytes bytes' : List Byte} (h : Packed s bits bytes t)
    (h' : Packed t bits' bytes' u) : Packed s (bits ++ bits') (bytes ++ bytes') u :=
  ⟨h'.packing, by simp [h'.chOut, h.chOut], by simp [h'.accesses, h.accesses], by
    rw [← List.append_assoc, h.stream, List.append_assoc, h'.stream, streamBits_append, List.append_assoc]⟩

theorem placeBit_toNat_lt (b : Bool) {k : Fin 9} (h : AccFits s) (hk : k.val = s.boff.val + 1) :
    (placeBit b s.acc).toNat < 2 ^ k.val := by
  simpa [AccFits, placed] using placed_accFits (sym := bitSym b) h hk

theorem issueAll_singleton {w : Word} {r : Response} (h : issue w s = some (r, t)) :
    issueAll [w] s = some ([r], t) :=
  issueAll_cons h rfl

theorem ready_takeResponse (h : t.rst = false) : Ready (takeResponse t) := ready_iff.2 ⟨h, rfl⟩

theorem streamBits_singleton (b : Byte) : streamBits [b] = byteBits b := by simp [streamBits]

/-- A WRITE_BIT takes its bit, and at the eighth pushes a byte (R68). -/
theorem Packing.exec_writeBit (h : Packing s) (b : Bool) :
    ∃ t bytes, exec (.writeBit (bitSym b)) s = .next t ∧ t.rsp = some ⟨.ok, 0⟩ ∧
      Packed s [b] bytes (takeResponse t) := by
  have he : exec (.writeBit (bitSym b)) s = writeBitBody b s := by
    simpa using Machine.exec_writeBit h.writing (symLegal_bitSym b)
  have ha := answer_ok_of_allOk h.allOk
  have h7 := h.count
  have hx := (ready_iff.1 h.ready).1
  have hbits := lowBits_placeBit b s.acc h7
  obtain ⟨k, hk, h6, e⟩ | ⟨hf, _, e⟩ | ⟨_, _, hn, _⟩ | ⟨_, _, hn, _⟩ | ⟨_, hn, _⟩ | ⟨h8, _⟩ := writeBitBody_cases b s
  · exact ⟨_, [], he.trans e, rfl,
      ⟨ready_takeResponse hx, h.writing, by change k.val ≤ 7; omega, placeBit_toNat_lt b h.acc hk, h.allOk⟩,
      by simp, by simp, by simp [waitingBits, hk, hbits, streamBits]⟩
  · have hbyte : byteBits (placeBit b s.acc) = waitingBits s ++ [b] := by
      simpa [byteBits, waitingBits, hf] using hbits
    exact ⟨_, [placeBit b s.acc], he.trans e, rfl,
      ⟨ready_takeResponse hx, h.writing, by simp, by simp, allOk_of_suffix h.allOk (List.tail_suffix _)⟩,
      by simp, by simp, by rw [streamBits_singleton, hbyte]; simp [waitingBits, lowBits]⟩
  · simp [ha] at hn
  · simp [ha] at hn
  · simp [ha] at hn
  · omega

theorem Packing.writeBit (h : Packing s) (b : Bool) :
    ∃ t bytes, issue (encode (.writeBit (bitSym b))) s = some (⟨.ok, 0⟩, t) ∧ Packed s [b] bytes t := by
  have hd : decode (encode (.writeBit (bitSym b))) = some (.writeBit (bitSym b)) := by cases b <;> decide
  have hc : Packing { s with cmd := none } := ⟨h.ready, h.writing, h.count, h.acc, h.allOk⟩
  obtain ⟨t, bytes, e, hr, hp⟩ := hc.exec_writeBit b
  exact ⟨_, bytes, issue_of_exec h.ready hd e hr, hp.packing, hp.chOut, hp.accesses, hp.stream⟩

/-- WRITE_BITs take their bits one after the other (R69). -/
theorem Packing.writeBits (h : Packing s) (bits : List Bool) :
    ∃ t bytes, issueAll (words (writeBits bits)) s = some (List.replicate bits.length ⟨.ok, 0⟩, t) ∧
      Packed s bits bytes t := by
  induction bits generalizing s with
  | nil => exact ⟨s, [], rfl, .refl h⟩
  | cons b bits ih =>
    obtain ⟨u, byte, e, hu⟩ := h.writeBit b
    obtain ⟨t, bytes, e', ht⟩ := ih hu.packing
    exact ⟨t, byte ++ bytes, issueAll_cons e e', hu.trans ht⟩

/-! ### A session from an empty accumulator -/

/-- What is left of the bits of a session that began with an empty accumulator, and how many bytes they filled (R69). -/
theorem Packed.counts {bits : List Bool} {bytes : List Byte} (h : Packed s bits bytes t) (h0 : s.boff = 0) :
    bits = streamBits bytes ++ waitingBits t ∧ bytes.length = bits.length / 8 ∧ t.boff.val = bits.length % 8 := by
  have e : bits = streamBits bytes ++ waitingBits t := by simpa [waitingBits, h0, lowBits] using h.stream
  have hl := congrArg List.length e
  have h7 := h.packing.count
  rw [List.length_append, streamBits_length, waitingBits, lowBits_length] at hl
  exact ⟨e, by omega, by omega⟩

theorem accFits_zero (h : AccFits s) (hb : s.boff.val = 0) : s.acc = 0 :=
  BitVec.eq_of_toNat_eq (by simpa [AccFits, hb] using h)

/-- The final byte of CLOSE (R80). -/
theorem byteBits_finalByte (s : State) :
    byteBits (finalByte s) = waitingBits s ++ List.replicate (padCount s.boff) false := by
  have hk := s.boff.isLt
  have e : s.boff.val + padCount s.boff = 8 := by simp only [padCount]; omega
  have h := lowBits_shiftLeft s.acc e.le
  rwa [e] at h

/-- From `s` to `t` the session has ended, and what waited in `s` is written, filled up with zeros to whole bytes (R43,
R80). -/
def Flushed (s t : State) : Prop :=
  ∃ bytes, t.chOut = s.chOut ++ bytes ∧ bytes.length = (s.boff.val + 7) / 8 ∧
    streamBits bytes = waitingBits s ++ List.replicate ((8 - s.boff.val) % 8) false ∧ regs t = idleValues

/-- CLOSE of a packing session answers the filler count and flushes what waits (R80). -/
theorem Packing.exec_close (h : Packing s) :
    ∃ t, exec .close s = .next t ∧ t.rsp = some ⟨.ok, BitVec.ofNat 64 ((8 - s.boff.val) % 8)⟩ ∧ Flushed s t := by
  have h7 := h.count
  rw [Machine.exec_close (by simp [h.writing.1])]
  by_cases h0 : s.boff.val = 0
  · have e : closeBody s = .next ((idleRegs s).load .ok 0) := by
      simp only [closeBody, h.writing.1, h.writing.2, closeWrite, if_pos h0]
      rfl
    exact ⟨_, e, by simp [h0], [], by simp, by simp [h0], by simp [h0, waitingBits, lowBits, streamBits], rfl⟩
  · have hpad : padCount s.boff = (8 - s.boff.val) % 8 := by simp only [padCount]; omega
    rw [closeBody_flush h.writing h0, chPush_ok (answer_ok_of_allOk h.allOk)]
    refine ⟨_, rfl, by rw [← hpad]; rfl, [finalByte s], rfl, by rw [List.length_singleton]; omega, ?_, rfl⟩
    rw [streamBits_singleton, byteBits_finalByte, hpad]

theorem Packing.close (h : Packing s) :
    ∃ t, issue (encode .close) s = some (⟨.ok, BitVec.ofNat 64 ((8 - s.boff.val) % 8)⟩, t) ∧ Flushed s t := by
  have hc : Packing { s with cmd := none } := ⟨h.ready, h.writing, h.count, h.acc, h.allOk⟩
  obtain ⟨t, e, hr, hf⟩ := hc.exec_close
  exact ⟨_, issue_of_exec h.ready (by decide) e hr, hf⟩

/-- A Write CONSTRUCT opens a session that packs from an empty accumulator (R65). -/
theorem issue_constructW (hr : Ready s) (hl : s.lc = .idle) (ha : AllOk s) :
    ∃ t, issue (encode .constructW) s = some (⟨.ok, 0⟩, t) ∧ Packing t ∧ t.boff = 0 ∧ t.chOut = s.chOut := by
  have e := exec_constructW (s := { s with cmd := none }) hl
  exact ⟨_, issue_of_exec hr (by decide) e rfl,
    ⟨ready_takeResponse (ready_iff.1 hr).1, ⟨rfl, rfl⟩, by simp, by simp, ha⟩, rfl, rfl⟩

end Sys2Proof.Machine
end

section

open Sys2Proof Sys2Proof.Machine

/-- Settles O37: the bits of a session that began empty are those of the bytes pushed and then those that wait. -/
theorem bitsPackMostSignificantFirst : Obligations.BitsPackMostSignificantFirst := by
  unfold Obligations.BitsPackMostSignificantFirst
  intro s bits hr hw ha hb hok
  have h : Packing s := ⟨hr, hw, by simp [hb], by simp [ha], hok⟩
  obtain ⟨t, bytes, e, hp⟩ := h.writeBits bits
  obtain ⟨hbits, hlen, hcount⟩ := hp.counts hb
  have hempty (h8 : bits.length % 8 = 0) : streamBits bytes = bits ∧ t.acc = 0 ∧ t.boff = 0 := by
    have h0 : t.boff.val = 0 := hcount.trans h8
    exact ⟨by simpa [waitingBits, h0, lowBits] using hbits.symm, accFits_zero hp.packing.acc h0, Fin.ext h0⟩
  refine ⟨t, e, fun h7 => ?_, fun h8 => ?_, fun h8 => ?_⟩
  · have hb0 : bytes = [] := List.eq_nil_of_length_eq_zero (by omega)
    subst hb0
    have hw : bits = waitingBits t := hbits
    have hv : bitsValue bits = t.acc.toNat := by
      rw [hw, waitingBits, bitsValue_lowBits, Nat.mod_eq_of_lt hp.packing.acc]
    exact ⟨by omega, hv.symm, by simpa using hp.chOut, by simpa using hp.accesses⟩
  · obtain ⟨hs, h0⟩ := hempty (by omega)
    obtain ⟨byte, rfl⟩ := List.length_eq_one_iff.1 (show bytes.length = 1 by omega)
    rw [streamBits_singleton] at hs
    exact ⟨byte, hs, by rw [← hs, bitsValue_byteBits], hp.chOut, h0⟩
  · exact ⟨bytes, hp.chOut, hlen, hempty h8⟩

/-- Settles O56: CONSTRUCT, the packing of the bits, and the flush of those that wait. -/
theorem writeSessionPaddingLaw : Obligations.WriteSessionPaddingLaw := by
  unfold Obligations.WriteSessionPaddingLaw
  intro s bits hr hl hok
  obtain ⟨a, ea, ha, h0, hout⟩ := issue_constructW hr hl hok
  obtain ⟨u, bytes, eu, hp⟩ := ha.writeBits bits
  obtain ⟨hbits, hlen, hcount⟩ := hp.counts h0
  obtain ⟨t, et, last, hlast, hll, hls, hregs⟩ := hp.packing.close
  have hpad : (8 - u.boff.val) % 8 = (8 - bits.length % 8) % 8 := by rw [hcount]
  rw [hpad] at et hls
  have hrun := issueAll_append (issueAll_cons ea eu) (issueAll_singleton et)
  refine ⟨t, bytes ++ last, by simpa [words, List.replicate_succ] using hrun, ?_, ?_, ?_, hregs⟩
  · rw [hlast, hp.chOut, hout, List.append_assoc]
  · rw [List.length_append]
    omega
  · rw [streamBits_append, hls, ← List.append_assoc, ← hbits]

end
section
/-! SUPPORT. Which accesses a command makes, and how many (20_memory.md R36, R45). -/

namespace Sys2Proof.Machine

open Sys2Proof

variable {i : Instr} {s t u : State}

/-! ### The accesses on record -/

/-- From `s` to `t` the accesses put on record are a list with this property. -/
def Accessed (P : List Access → Prop) (s t : State) : Prop := ∃ new, t.accesses = s.accesses ++ new ∧ P new

theorem Accessed.mono {P Q : List Access → Prop} (hpq : ∀ l, P l → Q l) (h : Accessed P s t) : Accessed Q s t :=
  h.imp fun _ ⟨e, hp⟩ => ⟨e, hpq _ hp⟩

theorem accessed_nil {P : List Access → Prop} (h : t.accesses = s.accesses) (hp : P []) : Accessed P s t :=
  ⟨[], by simp [h], hp⟩

theorem Accessed.of_channels {P : List Access → Prop} (h : Accessed P s u) (hc : channels t = channels u) :
    Accessed P s t :=
  h.imp fun _ ⟨e, hp⟩ => ⟨(congrArg (fun c => c.2.2) hc).trans e, hp⟩

/-- The end of a command touches no channel: what its body did to them is what the command did (R12, R87, R101). -/
theorem finish_channels {α : Type} {r : Result α} {k : α → State → Out} {P : State → Prop} (hr : r.on P)
    (hk : ∀ a u t, k a u = .next t → channels t = channels u) (h : r.finish k = .next t) :
    ∃ u, P u ∧ channels t = channels u := by
  obtain ⟨a, u, e, h⟩ | ⟨u, e, rfl⟩ | ⟨u, e, rfl⟩ := finish_next h <;> rw [e] at hr
  · exact ⟨u, hr, hk a u t h⟩
  · exact ⟨u, hr, rfl⟩
  · exact ⟨u, hr, rfl⟩

theorem readBit_channels {P : State → Prop} (hr : (rb s).on P) (h : readBitBody s = .next t) :
    ∃ u, P u ∧ channels t = channels u := by
  refine finish_channels hr (fun r u t e => ?_) h
  cases r <;> cases e <;> rfl

theorem readNbits_channels {n : Nat} {P : State → Prop} (hr : (gather n 0 s).on P) (h : readNbitsBody n s = .next t) :
    ∃ u, P u ∧ channels t = channels u := by
  refine finish_channels hr (fun r u t e => ?_) h
  cases r <;> cases e <;> rfl

/-- A pop and then a probe, or as much of that as was made (R45). -/
abbrev PopProbe (new : List Access) : Prop := new <+: [.pop, .probe]

theorem readByte_channels (h : readByteBody s = .next t) :
    ∃ u, (ReadMove s u ∧ Accessed PopProbe s u) ∧ channels t = channels u := by
  have hpop : Accessed PopProbe s (s.access .pop) := ⟨[.pop], rfl, by decide⟩
  have hprobe (b : Byte) (bs : List Byte) : Accessed PopProbe s ((held b bs s).access .probe) :=
    ⟨[.pop, .probe], by simp [held], by decide⟩
  obtain ⟨_, e⟩ | ⟨_, ⟨_, _, e⟩ | ⟨b, bs, _, hc, _, e⟩ | ⟨b, bs, _, _, hc, _, e⟩ | ⟨b, bs, _, _, hc, _, e⟩ |
    ⟨_, _, _, _, _, e⟩ | ⟨m, _, e⟩ | ⟨m, _, e⟩ | ⟨_, e⟩⟩ := readByteBody_cases s <;> rw [e] at h <;> cases h
  · exact ⟨s, ⟨.refl s, accessed_nil rfl List.nil_prefix⟩, rfl⟩
  · exact ⟨_, ⟨readMove_setLast_pop true s, hpop⟩, rfl⟩
  · exact ⟨_, ⟨readMove_heldProbed hc, hprobe b bs⟩, rfl⟩
  · exact ⟨_, ⟨(readMove_held hc).trans (readMove_probe _), hprobe b bs⟩, rfl⟩
  · exact ⟨_, ⟨(readMove_held hc).trans (readMove_probe _), hprobe b bs⟩, rfl⟩
  · exact ⟨_, ⟨readMove_popMoved m s, ⟨[.pop], by simp, by decide⟩⟩, rfl⟩
  · exact ⟨_, ⟨readMove_popMoved _ s, ⟨[.pop], by simp, by decide⟩⟩, rfl⟩

/-! ### Each channel in its mode (R36) -/

/-- All a command can have done to the channels: nothing, or reading in a Read session, or one push in a Write
session. -/
inductive Touched (i : Instr) (s t : State) : Prop
  | nothing (h : channels t = channels s)
  | read {u : State} (hi : IsRead i) (hc : check i s = none) (hr : Reading s) (hm : ReadMove s u)
      (h : channels t = channels u)
  | push {b : Byte} (hc : check i s = none) (hp : Pushes i s b) (hin : t.chIn = s.chIn)
      (h : t.accesses = s.accesses ++ [.push b])

theorem touched_writeBit {sym : Byte} (hc : check (.writeBit sym) s = none) (hw : Writing s)
    (h : writeBitBody (symBit sym) s = .next t) : Touched (.writeBit sym) s t := by
  obtain ⟨_, _, _, e⟩ | ⟨h7, _, e⟩ | ⟨_, h7, _, e⟩ | ⟨_, h7, _, e⟩ | ⟨_, _, e⟩ | ⟨_, e⟩ :=
    writeBitBody_cases (symBit sym) s <;> rw [e] at h <;> cases h
  · exact .nothing rfl
  · exact .push hc (pushes_writeBit hw h7) rfl rfl
  · exact .push hc (pushes_writeBit hw h7) (by simp) (by simp)
  · exact .push hc (pushes_writeBit hw h7) (by simp) (by simp)

theorem touched_close (hc : check .close s = none) (h : closeBody s = .next t) : Touched .close s t := by
  have hp (hf : s.lc ≠ .failed) (hm : s.mode = .write) (hb : s.boff.val ≠ 0) : Pushes .close s (finalByte s) :=
    ⟨⟨LC.eq_opened (check_close_none.1 hc) hf, hm⟩, .inr ⟨rfl, by omega, rfl⟩⟩
  obtain ⟨_, e⟩ | ⟨_, _, e⟩ | ⟨hf, hm, hb, ⟨_, e⟩ | ⟨_, _, e⟩ | ⟨_, _, e⟩ | ⟨_, e⟩⟩ := closeBody_cases s <;>
    rw [e] at h <;> cases h
  · exact .nothing rfl
  · exact .nothing rfl
  · exact .push hc (hp hf hm hb) rfl rfl
  · exact .push hc (hp hf hm hb) (by simp) (by simp)
  · exact .push hc (hp hf hm hb) (by simp) (by simp)

theorem exec_touched (h : exec i s = .next t) : Touched i s t := by
  obtain ⟨_, _, rfl⟩ | ⟨hc, h⟩ := exec_next h
  · exact .nothing rfl
  · cases i with
    | constructR pad =>
      obtain ⟨_, rfl⟩ := h
      exact .nothing rfl
    | constructW =>
      obtain ⟨_, rfl⟩ := h
      exact .nothing rfl
    | writeBit sym => exact touched_writeBit hc h.1 h.2.2
    | readBit =>
      obtain ⟨u, hm, e⟩ := readBit_channels (rb_move s) h.2
      exact .read (.inl rfl) hc h.1 hm e
    | readByte =>
      obtain ⟨u, ⟨hm, _⟩, e⟩ := readByte_channels h.2
      exact .read (.inr (.inl rfl)) hc h.1 hm e
    | readNbits n =>
      obtain ⟨u, hm, e⟩ := readNbits_channels (gather_move n 0 s) h.2.2
      exact .read (.inr (.inr ⟨n, rfl⟩)) hc h.1 hm e
    | close => exact touched_close hc h.2

theorem isConstruct_of_isRead (h : IsRead i) : isConstruct i = false := by
  obtain rfl | rfl | ⟨n, rfl⟩ := h <;> rfl

theorem Pushes.command {b : Byte} (h : Pushes i s b) : i = .close ∨ ∃ sym, i = .writeBit sym := by
  obtain ⟨_, ⟨sym, hs, _⟩ | ⟨hc, _⟩⟩ := h
  · exact .inr ⟨sym, hs⟩
  · exact .inl hc

theorem Pushes.isConstruct_false {b : Byte} (h : Pushes i s b) : isConstruct i = false := by
  obtain rfl | ⟨sym, rfl⟩ := h.command <;> rfl

/-! ### How many accesses (R45) -/

theorem PopProbe.counts {new : List Access} (h : PopProbe new) :
    new.countP isPop ≤ 1 ∧ new.countP isProbe ≤ 1 ∧ new.length ≤ 2 :=
  ⟨h.sublist.countP_le, h.sublist.countP_le, h.length_le⟩

/-- A pop and a probe at most, and those only from an ACC that holds no bit. -/
abbrev RefillOnly (buffered : Nat) (new : List Access) : Prop := PopProbe new ∧ (buffered ≠ 0 → new = [])

/-- A one-bit step makes a pop and a probe at most, and none while ACC holds bits (R74). -/
theorem rb_accessed (s : State) :
    (rb s).on (Accessed (RefillOnly s.boff.val) s) := by
  have hp (hb : s.boff.val = 0) {t : State} (new : List Access) (h : t.accesses = s.accesses ++ new)
      (hn : PopProbe new) : Accessed (RefillOnly s.boff.val) s t := ⟨new, h, hn, fun h => absurd hb h⟩
  obtain ⟨_, e⟩ | ⟨_, _, e⟩ | ⟨_, hb, e⟩ := rb_cases s <;> rw [e]
  · exact accessed_nil rfl ⟨List.nil_prefix, fun _ => rfl⟩
  · exact accessed_nil rfl ⟨List.nil_prefix, fun _ => rfl⟩
  · obtain ⟨_, _, h⟩ | ⟨b, bs, _, _, _, h⟩ | ⟨b, bs, m, _, _, _, h⟩ | ⟨b, bs, m, _, _, _, h⟩ | ⟨_, _, _, _, _, h⟩ |
      ⟨m, _, h⟩ | ⟨m, _, h⟩ | ⟨_, h⟩ := refill_cases s <;> rw [h]
    · exact hp hb [.pop] rfl (by decide)
    · exact hp hb [.pop, .probe] (by simp [refilled, popped]) (by decide)
    · exact hp hb [.pop, .probe] (by simp [popped]) (by decide)
    · exact hp hb [.pop, .probe] (by simp [popped]) (by decide)
    · trivial
    · exact hp hb [.pop] (by simp) (by decide)
    · exact hp hb [.pop] (by simp) (by decide)
    · trivial

/-- Pops and probes are one each at most for every eight of these bits, the last ones begun counted whole. -/
structure OnePerByte (bits : Nat) (new : List Access) : Prop where
  pops : 8 * new.countP isPop ≤ bits + 7
  probes : 8 * new.countP isProbe ≤ bits + 7

theorem RefillOnly.onePerByte {k n : Nat} {new : List Access} (h : RefillOnly k new) : OnePerByte (n + 1 - k) new := by
  obtain ⟨hp, hk⟩ := h
  obtain ⟨h1, h2, _⟩ := hp.counts
  by_cases h0 : k = 0
  · exact ⟨by omega, by omega⟩
  · rw [hk h0]
    exact ⟨by simp, by simp⟩

theorem rb_bit_boff {b : Bool} (h : rb s = .done (.bit b) t) :
    t.boff.val = if s.boff.val = 0 then 7 else s.boff.val - 1 := by
  cases rb_done h with
  | buffered _ hb => simp [hb]
  | refill _ hb _ => simp [hb]

/-- A refill serves eight bits: a bit and then the rest cost no more than all of them at once. -/
theorem RefillOnly.append {k k' n : Nat} {new more : List Access} (h : RefillOnly k new)
    (hk : k' = if k = 0 then 7 else k - 1) (hm : OnePerByte (n - k') more) : OnePerByte (n + 1 - k) (new ++ more) := by
  obtain ⟨hp, hn⟩ := h
  obtain ⟨m1, m2⟩ := hm
  obtain ⟨h1, h2, _⟩ := hp.counts
  by_cases h0 : k = 0
  · simp only [h0, if_true] at hk
    exact ⟨by rw [List.countP_append]; omega, by rw [List.countP_append]; omega⟩
  · rw [if_neg h0] at hk
    rw [hn h0]
    exact ⟨by rw [List.nil_append]; omega, by rw [List.nil_append]; omega⟩

/-- The READ_NBITS loop refills once for every eight bits that ACC does not hold (R78). -/
theorem gather_accessed (n : Nat) (v : Data) (s : State) :
    (gather n v s).on (Accessed (OnePerByte (n - s.boff.val)) s) := by
  induction n generalizing v s with
  | zero => exact accessed_nil rfl ⟨by simp, by simp⟩
  | succ n ih =>
    have h := rb_accessed s
    unfold gather
    cases hr : rb s with
    | done r u =>
      rw [hr] at h
      cases r with
      | bit b =>
        obtain ⟨new, e, hn⟩ := h
        refine Result.on_mono (fun t ⟨more, e', hm⟩ => ?_) (ih (appendBit v b) u)
        exact ⟨new ++ more, by rw [e', e, List.append_assoc], hn.append (rb_bit_boff hr) hm⟩
      | eod => exact h.mono fun _ hn => hn.onePerByte
    | failed u =>
      rw [hr] at h
      exact h.mono fun _ hn => hn.onePerByte
    | abandoned u =>
      rw [hr] at h
      exact h.mono fun _ hn => hn.onePerByte
    | silent => trivial

/-- A command that reads nothing makes one access at most: a push (R45). -/
theorem Touched.length_le_one (h : Touched i s t) (hi : ¬ IsRead i) :
    Accessed (fun new => new.length ≤ 1) s t := by
  cases h with
  | nothing h => exact (accessed_nil rfl (by simp)).of_channels h
  | read hr _ _ _ _ => exact absurd hr hi
  | push _ _ _ h => exact ⟨_, h, by simp⟩

/-- CONSTRUCT leaves the channels alone (R65). -/
theorem Touched.channels_eq (h : Touched i s t) (hi : isConstruct i = true) : channels t = channels s := by
  cases h with
  | nothing h => exact h
  | read hr _ _ _ _ => simp [isConstruct_of_isRead hr] at hi
  | push _ hp _ _ => simp [hp.isConstruct_false] at hi

/-- A refused command makes no access, so what its body makes is what it makes (R84). -/
theorem exec_accessed {P : List Access → Prop} (h : exec i s = .next t) (h0 : P [])
    (hb : Ran i s t → ∃ u, Accessed P s u ∧ channels t = channels u) : Accessed P s t := by
  obtain ⟨_, _, rfl⟩ | ⟨_, h⟩ := exec_next h
  · exact accessed_nil rfl h0
  · obtain ⟨u, hu, hc⟩ := hb h
    exact hu.of_channels hc

theorem exec_readBit_accessed (h : exec .readBit s = .next t) : Accessed (RefillOnly s.boff.val) s t :=
  exec_accessed h ⟨List.nil_prefix, fun _ => rfl⟩ fun hb => readBit_channels (rb_accessed s) hb.2

theorem exec_readByte_accessed (h : exec .readByte s = .next t) : Accessed PopProbe s t :=
  exec_accessed h List.nil_prefix fun hb =>
    (readByte_channels hb.2).imp fun _ ⟨⟨_, hu⟩, hc⟩ => ⟨hu, hc⟩

theorem exec_readNbits_accessed {n : Nat} (h : exec (.readNbits n) s = .next t) :
    Accessed (OnePerByte (n - s.boff.val)) s t :=
  exec_accessed h ⟨by simp, by simp⟩ fun hb => readNbits_channels (gather_accessed n 0 s) hb.2.2

end Sys2Proof.Machine
end

section

open Sys2Proof Sys2Proof.Machine

/-- Settles O31: a command leaves the channels alone, or reads in a Read session, or makes its one push in a Write
session. -/
theorem eachChannelOnlyInItsMode : Obligations.EachChannelOnlyInItsMode := by
  unfold Obligations.EachChannelOnlyInItsMode
  refine ⟨fun s t w hr hw hd hs => ?_, fun i s t h => ?_⟩
  · obtain ⟨_, i, _, hw', hd', _⟩ | ⟨_, _, _, _, rfl⟩ | ⟨hn, _⟩ := step_cases hs
    · cases hw.symm.trans hw'
      simp [hd] at hd'
    · rfl
    · simp [hn hr] at hw
  · cases exec_touched h with
    | nothing h =>
      simp only [channels, Prod.mk.injEq] at h
      obtain ⟨hin, hout, ha⟩ := h
      exact ⟨[], by simp [ha], fun _ => rfl, by simp, by simp, fun hne => absurd hin hne, fun hne => absurd hout hne⟩
    | read hi hc hr hm h =>
      simp only [channels, Prod.mk.injEq] at h
      obtain ⟨hin, hout, ha⟩ := h
      obtain ⟨new, e, hpush, hpop⟩ := hm.accesses
      exact ⟨new, ha.trans e, by simp [isConstruct_of_isRead hi, hc], fun _ _ _ => ⟨hr, hi⟩,
        fun a ham hp => by simp [hpush a ham] at hp, fun hne => hpop (hin ▸ hne),
        fun hne => absurd (hout.trans hm.chOut) hne⟩
    | @push b hc hp hin h =>
      exact ⟨[.push b], h, by simp [hp.isConstruct_false, hc], by simp [isPop, isProbe],
        fun _ _ _ => ⟨hp.1, hp.command⟩, fun hne => absurd hin hne, fun _ => by simp [isPush]⟩

/-- Settles O32: a refill is a pop and a probe, and serves eight bits. -/
theorem accessesPerCommandAreBounded : Obligations.AccessesPerCommandAreBounded := by
  unfold Obligations.AccessesPerCommandAreBounded
  intro i s t h
  cases i with
  | constructR pad => exact (accessed_nil (P := (· = [])) rfl rfl).of_channels ((exec_touched h).channels_eq rfl)
  | constructW => exact (accessed_nil (P := (· = [])) rfl rfl).of_channels ((exec_touched h).channels_eq rfl)
  | writeBit sym => exact (exec_touched h).length_le_one (by simp [IsRead])
  | readBit => exact (exec_readBit_accessed h).mono fun _ hp => hp.1.counts
  | readByte => exact (exec_readByte_accessed h).mono fun _ hp => hp.counts
  | readNbits n =>
    exact (exec_readNbits_accessed h).mono fun _ ⟨hpops, hprobes⟩ => ⟨by omega, by omega⟩
  | close => exact (exec_touched h).length_le_one (by simp [IsRead])

end
section
/-! SUPPORT. A command whose channel accesses are all answered completes (20_memory.md R41, 70_reset_and_hazards.md
R115). -/

namespace Sys2Proof.Machine

open Sys2Proof

variable {i : Instr} {s t : State}

/-- The outcome is a next state with a response, the pin `rst` as it was. -/
def Completes (s : State) (o : Out) : Prop := ∃ t r, o = .next t ∧ t.rsp = some r ∧ t.rst = s.rst

theorem completes_load {st : Status} {d : Data} (h : t.rst = s.rst) : Completes s (.next (t.load st d)) :=
  ⟨_, _, rfl, rfl, h⟩

/-! ### Answers that come -/

theorem answer_comes (h : AllAnswered s) : answerComes s.answer = true := by
  unfold State.answer
  cases hc : s.chan with
  | nil => rfl
  | cons a as => exact h a (by simp [hc])

theorem allAnswered_of_suffix (h : AllAnswered s) (hc : t.chan <:+ s.chan) : AllAnswered t :=
  fun a ha => h a (hc.subset ha)

theorem answer_ne_rst (h : AllAnswered s) (e : RstEdge) : s.answer ≠ .rst e := fun ha => by
  simpa [ha, answerComes] using answer_comes h

theorem answer_ne_never (h : AllAnswered s) : s.answer ≠ .never := fun ha => by
  simpa [ha, answerComes] using answer_comes h

theorem allAnswered_second (h : AllAnswered s) : AllAnswered (s.access .pop) :=
  allAnswered_of_suffix h (List.tail_suffix _)

/-- The piece of a command succeeded or failed: no reset cut it short, and it does not wait for ever. -/
def Result.Answered {α : Type} (r : Result α) : Prop :=
  match r with
  | .done _ _ => True
  | .failed _ => True
  | .abandoned _ => False
  | .silent => False

theorem Result.Answered.completes {α : Type} {r : Result α} {k : α → State → Out} (h : r.Answered)
    (hm : r.on (ReadMove s)) (hk : ∀ a u, ∃ st d, k a u = .next (u.load st d)) : Completes s (r.finish k) := by
  cases r with
  | done a u =>
    obtain ⟨st, d, e⟩ := hk a u
    rw [finish_done, e]
    exact completes_load hm.rst
  | failed u => exact completes_load hm.rst
  | abandoned u => exact h.elim
  | silent => exact h.elim

theorem refill_answered (h : AllAnswered s) : (refill s).Answered := by
  have h2 := allAnswered_second h
  obtain ⟨_, _, e⟩ | ⟨_, _, _, _, _, e⟩ | ⟨_, _, _, _, _, _, e⟩ | ⟨_, _, m, _, _, ha, _⟩ | ⟨_, _, _, _, ha, _⟩ |
    ⟨_, _, e⟩ | ⟨m, ha, _⟩ | ⟨ha, _⟩ := refill_cases s
  · rw [e]; trivial
  · rw [e]; trivial
  · rw [e]; trivial
  · exact absurd ha (answer_ne_rst h2 m)
  · exact absurd ha (answer_ne_never h2)
  · rw [e]; trivial
  · exact absurd ha (answer_ne_rst h m)
  · exact absurd ha (answer_ne_never h)

theorem rb_answered (h : AllAnswered s) : (rb s).Answered := by
  obtain ⟨_, e⟩ | ⟨_, _, e⟩ | ⟨_, _, e⟩ := rb_cases s <;> rw [e]
  · trivial
  · trivial
  · exact refill_answered h

theorem gather_answered (n : Nat) (v : Data) (h : AllAnswered s) : (gather n v s).Answered := by
  induction n generalizing v s with
  | zero => trivial
  | succ n ih =>
    have hr := rb_answered h
    have hm := rb_move s
    unfold gather
    cases e : rb s with
    | done r u =>
      rw [e] at hm
      cases r with
      | bit b => exact ih (appendBit v b) (allAnswered_of_suffix h hm.chan)
      | eod => trivial
    | failed u => trivial
    | abandoned u => rw [e] at hr; exact hr
    | silent => rw [e] at hr; exact hr

/-! ### The bodies -/

theorem readBitBody_completes (h : AllAnswered s) : Completes s (readBitBody s) :=
  (rb_answered h).completes (rb_move s) fun r u => by
    cases r with
    | bit b => exact ⟨.ok, bitData b, rfl⟩
    | eod => exact ⟨.eod, 0, rfl⟩

theorem readNbitsBody_completes (n : Nat) (h : AllAnswered s) : Completes s (readNbitsBody n s) :=
  (gather_answered n 0 h).completes (gather_move n 0 s) fun r u => by
    cases r with
    | some v => exact ⟨.ok, v, rfl⟩
    | none => exact ⟨.eod, 0, rfl⟩

theorem readByteBody_completes (h : AllAnswered s) : Completes s (readByteBody s) := by
  have h2 := allAnswered_second h
  obtain ⟨_, e⟩ | ⟨_, ⟨_, _, e⟩ | ⟨b, bs, _, hc, _, e⟩ | ⟨b, bs, _, _, hc, _, e⟩ | ⟨_, _, m, _, _, ha, _⟩ |
    ⟨_, _, _, _, ha, _⟩ | ⟨m, _, e⟩ | ⟨m, ha, _⟩ | ⟨ha, _⟩⟩ := readByteBody_cases s
  · rw [e]; exact completes_load rfl
  · rw [e]; exact completes_load rfl
  · rw [e]; exact completes_load rfl
  · rw [e]; exact completes_load rfl
  · exact absurd ha (answer_ne_rst h2 m)
  · exact absurd ha (answer_ne_never h2)
  · rw [e]; exact completes_load (by simp)
  · exact absurd ha (answer_ne_rst h m)
  · exact absurd ha (answer_ne_never h)

theorem writeBitBody_completes (b : Bool) (hk : CountOk s) (h : AllAnswered s) : Completes s (writeBitBody b s) := by
  obtain ⟨_, _, _, e⟩ | ⟨_, _, e⟩ | ⟨_, _, _, e⟩ | ⟨m, _, ha, _⟩ | ⟨_, ha, _⟩ | ⟨h8, _⟩ := writeBitBody_cases b s
  · rw [e]; exact completes_load rfl
  · rw [e]; exact completes_load rfl
  · rw [e]; exact completes_load (by simp)
  · exact absurd ha (answer_ne_rst h m)
  · exact absurd ha (answer_ne_never h)
  · exact absurd hk (by simp [CountOk, h8])

theorem closeBody_completes (h : AllAnswered s) : Completes s (closeBody s) := by
  obtain ⟨_, e⟩ | ⟨_, _, e⟩ | ⟨_, _, _, ⟨_, e⟩ | ⟨_, _, e⟩ | ⟨m, ha, _⟩ | ⟨ha, _⟩⟩ := closeBody_cases s
  · rw [e]; exact completes_load rfl
  · rw [e]; exact completes_load rfl
  · rw [e]; exact completes_load rfl
  · rw [e]; exact completes_load (by simp)
  · exact absurd ha (answer_ne_rst h m)
  · exact absurd ha (answer_ne_never h)

/-- A command completes if its body does: a refusal is a response too (R84). -/
theorem guarded_completes {body : State → Out} (h : Completes s (body s)) : Completes s (guarded i s body) := by
  cases hc : check i s with
  | none => rwa [guarded_none hc]
  | some st =>
    rw [guarded_some hc]
    exact completes_load rfl

theorem exec_completes (i : Instr) (hk : CountOk s) (h : AllAnswered s) : Completes s (exec i s) := by
  cases i with
  | constructR pad => exact guarded_completes (body := constructBody .read pad) (completes_load rfl)
  | constructW => exact guarded_completes (body := constructBody .write 0) (completes_load rfl)
  | writeBit sym => exact guarded_completes (writeBitBody_completes (symBit sym) hk h)
  | readBit => exact guarded_completes (readBitBody_completes h)
  | readByte => exact guarded_completes (readByteBody_completes h)
  | readNbits n => exact guarded_completes (readNbitsBody_completes n h)
  | close => exact guarded_completes (closeBody_completes h)

end Sys2Proof.Machine
end

section

open Sys2Proof Sys2Proof.Machine

/-- Settles O60: an access that is answered neither waits for ever nor is cut short. -/
theorem answeredCommandsComplete : Obligations.AnsweredCommandsComplete := by
  unfold Obligations.AnsweredCommandsComplete
  exact fun i _ hk h => exec_completes i hk h

/-- Settles O22: with no word to transfer the step is the host's, and its duty ends with the Read session. -/
theorem channelConnectedOnlyBetweenReadSessions : Obligations.ChannelConnectedOnlyBetweenReadSessions := by
  unfold Obligations.ChannelConnectedOnlyBetweenReadSessions
  intro s bytes rest hr hh
  have e : step s = connectChannel bytes { s with host := rest } := by
    rw [step_eq_hostMove hr, hostMove_cons hh]
    rfl
  rw [e, connectChannel]
  refine ⟨fun hl hm => if_pos (by simp [inReadSession, hl, hm]), ?_⟩
  rintro (hl | hm)
  · exact if_neg (by simp [inReadSession, hl])
  · exact if_neg (by simp [inReadSession, hm])

/-- Settles O30: the answer of a failed access says whether its byte moved. -/
theorem bothOutcomesOfAFailedAccess : Obligations.BothOutcomesOfAFailedAccess := by
  unfold Obligations.BothOutcomesOfAFailedAccess
  exact fun s b rest => ⟨⟨_, chPop_err rfl, rfl⟩, ⟨_, chPop_err rfl, rfl⟩, ⟨_, chPush_err rfl, rfl⟩,
    ⟨_, chPush_err rfl, rfl⟩⟩

/-- Settles O34: the flush is one push that succeeds. -/
theorem writeBitFlushesTheEighthBit : Obligations.WriteBitFlushesTheEighthBit := by
  unfold Obligations.WriteBitFlushesTheEighthBit
  intro s b byte hw h7 ha hb
  rw [exec_writeBit hw (symLegal_bitSym b), symBit_bitSym, writeBitBody_flush b h7, hb, ← placeBit_eq_ofNat,
    chPush_ok (by exact ha)]
  rfl

end
section
/-! SUPPORT. The answers to an access by what the port shows at its edge (20_memory.md R34, R35, 70_reset_and_hazards.md
R101), and the one-bit step and READ_BYTE at a refill (42_read.md R74, R76). -/

namespace Sys2Proof.Machine

open Sys2Proof

variable {i : Instr} {s t : State}

/-! ### Answers by the ports -/

/-- The read port with no reset at its edge, by the answer. -/
theorem rdPort_cases (hx : rstAtAccess s = false) :
    (s.answer = .ok ∧ rdPort s = rdHead s.chIn) ∨ (∃ m, s.answer = .err m ∧ rdPort s = rdFailing s.chIn) ∨
      (s.answer = .never ∧ rdPort s = rdWaiting) := by
  obtain ha | ⟨m, ha⟩ | he | ha := answer_cases s
  · exact .inl ⟨ha, rdPort_ok ha⟩
  · exact .inr (.inl ⟨m, ha, rdPort_err ha⟩)
  · simp [rstAtAccess_iff.2 he] at hx
  · exact .inr (.inr ⟨ha, rdPort_never ha⟩)

theorem answer_ok_of_rdPort (hv : (rdPort s).valid = true) (he : (rdPort s).err = false)
    (hx : rstAtAccess s = false) : s.answer = .ok := by
  obtain ⟨ha, _⟩ | ⟨_, _, e⟩ | ⟨_, e⟩ := rdPort_cases hx
  · exact ha
  · simp [e, rdFailing] at he
  · simp [e, rdWaiting] at hv

theorem answer_err_of_rdPort (he : (rdPort s).err = true) (hx : rstAtAccess s = false) :
    ∃ m, s.answer = .err m := by
  obtain ⟨_, e⟩ | ⟨m, ha, _⟩ | ⟨_, e⟩ := rdPort_cases hx
  · simp [e, rdHead] at he
  · exact ⟨m, ha⟩
  · simp [e, rdWaiting] at he

theorem answer_never_of_rdPort (hv : (rdPort s).valid = false) (hx : rstAtAccess s = false) :
    s.answer = .never := by
  obtain ⟨_, e⟩ | ⟨_, _, e⟩ | ⟨ha, _⟩ := rdPort_cases hx
  · simp [e, rdHead] at hv
  · simp [e, rdFailing] at hv
  · exact ha

/-- A valid read port shows whether the channel holds a byte, failing or not (R34). -/
theorem rdPort_eos (hv : (rdPort s).valid = true) : (rdPort s).eos = s.chIn.isEmpty := by
  revert hv
  unfold rdPort
  split <;> simp [rdHead, rdFailing, rdWaiting]

theorem rdPort_eos_iff (hv : (rdPort s).valid = true) : (rdPort s).eos = true ↔ s.chIn = [] := by
  rw [rdPort_eos hv, List.isEmpty_iff]

/-- The write port with no reset at its edge, by the answer. -/
theorem wrPort_cases (hx : rstAtAccess s = false) :
    (s.answer = .ok ∧ wrPort s = ⟨true, false⟩) ∨ (∃ m, s.answer = .err m ∧ wrPort s = ⟨true, true⟩) ∨
      (s.answer = .never ∧ wrPort s = ⟨false, false⟩) := by
  obtain ha | ⟨m, ha⟩ | he | ha := answer_cases s
  · exact .inl ⟨ha, wrPort_ok ha⟩
  · exact .inr (.inl ⟨m, ha, wrPort_err ha⟩)
  · simp [rstAtAccess_iff.2 he] at hx
  · exact .inr (.inr ⟨ha, wrPort_never ha⟩)

/-- A pop cut short by a reset: its byte moved only if the port had answered (R101). -/
theorem popMoved_at_reset {e : RstEdge} (ha : s.answer = .rst e) :
    ((rdPort s).valid = false → e.moved = false) ∧
      (e.moved = true → s.chIn ≠ [] →
        (outputsDuring (some .pop) s).chRdPop = true ∨ (rdPort s).err = true) := by
  cases e with
  | waiting => simp
  | answered failing moved =>
    cases failing with
    | false =>
      have hp : rdPort s = rdHead s.chIn := rdPort_rst_answered ha
      simp [outputsDuring, hp, rdHead]
    | true =>
      have hp : rdPort s = rdFailing s.chIn := rdPort_rst_answered ha
      simp [hp, rdFailing]

/-! ### READ_BIT with an empty accumulator, and READ_BYTE (R74, R76) -/

theorem bind_finish {α β : Type} (r : Result α) (f : α → State → Result β) (k : β → State → Out) :
    (r.bind f).finish k = r.finish fun a t => (f a t).finish k := by
  cases r <;> rfl

theorem rb_eq_refill (hl : s.last = false) (hb : s.boff = 0) : rb s = refill s := by
  simp [rb, atEnd, hl, hb]

/-- The command begins with a pop when LAST = 0: a READ_BIT with an empty accumulator, or a READ_BYTE. -/
abbrev PopsFirst (i : Instr) (s : State) : Prop := (i = .readBit ∧ s.boff = 0) ∨ i = .readByte

theorem PopsFirst.exec_pop (hi : PopsFirst i s) (hr : Reading s) (hl : s.last = false) :
    ∃ k, exec i s = (chPop s).finish k := by
  obtain ⟨rfl, hb⟩ | rfl := hi
  · rw [exec_readBit hr, readBitBody, rb_eq_refill hl hb, refill, bind_finish]
    exact ⟨_, rfl⟩
  · rw [exec_readByte hr, readByteBody, hl]
    exact ⟨_, rfl⟩

/-- After a pop that found a byte the command probes, from a state that holds the byte. -/
theorem PopsFirst.exec_probe {b : Byte} {bs : List Byte} (hi : PopsFirst i s) (hr : Reading s) (hl : s.last = false)
    (hc : s.chIn = b :: bs) (ha : s.answer = .ok) :
    ∃ u k, (u = popped b bs s ∨ u = held b bs s) ∧ exec i s = (chProbe u).finish k := by
  obtain ⟨rfl, hb⟩ | rfl := hi
  · rw [exec_readBit hr, readBitBody, rb_eq_refill hl hb, refill_ok_cons ha hc, probeLoaded, bind_finish]
    exact ⟨_, _, .inl rfl, rfl⟩
  · rw [exec_readByte hr, readByteBody, hl, chPop_ok_cons ha hc]
    exact ⟨_, _, .inr rfl, rfl⟩

end Sys2Proof.Machine
end

section

open Sys2Proof Sys2Proof.Machine

/-- Settles O27: each answer of the port, a reset at its edge among them. -/
theorem popFollowsTheReadPort : Obligations.PopFollowsTheReadPort := by
  unfold Obligations.PopFollowsTheReadPort
  refine fun s => ⟨by simp [outputsDuring, and_assoc], rdPort_eos_iff, fun hv he hs hx => ?_, fun hv he hs hx => ?_,
    fun _ he hx => ?_, fun hv hx => chPop_never (answer_never_of_rdPort hv hx), fun hx => ?_⟩
  · have ha := answer_ok_of_rdPort hv he hx
    cases hc : s.chIn with
    | nil => simp [(rdPort_eos_iff hv).2 hc] at hs
    | cons b bs => exact ⟨b, _, by simp [rdPort_ok ha, rdHead, hc], chPop_ok_cons ha hc, by simp⟩
  · have hc := (rdPort_eos_iff hv).1 hs
    exact ⟨_, chPop_ok_nil (answer_ok_of_rdPort hv he hx) hc, hc, hc⟩
  · obtain ⟨m, ha⟩ := answer_err_of_rdPort he hx
    refine ⟨_, chPop_err ha, ?_⟩
    cases m <;> simp
  · obtain ⟨e, ha⟩ := rstAtAccess_iff.1 hx
    obtain ⟨hwait, hmoved⟩ := popMoved_at_reset ha
    refine ⟨_, chPop_rst ha, fun hv => by simp [hwait hv], ?_⟩
    by_cases hm : e.moved = true
    · by_cases hc : s.chIn = []
      · exact .inl (by simp [hc])
      · exact .inr ⟨hmoved hm hc, by simp [hm]⟩
    · exact .inl (by simp [hm])

/-- Settles O28: a probe reads the port and moves nothing. -/
theorem probeNeverChangesTheChannel : Obligations.ProbeNeverChangesTheChannel := by
  unfold Obligations.ProbeNeverChangesTheChannel
  refine fun s => ⟨rfl, fun hv he hx => ⟨_, chProbe_ok (answer_ok_of_rdPort hv he hx), rfl⟩, fun _ he hx => ?_,
    fun hv hx => chProbe_never (answer_never_of_rdPort hv hx), fun hx => ?_⟩
  · obtain ⟨m, ha⟩ := answer_err_of_rdPort he hx
    exact ⟨_, chProbe_err ha, rfl⟩
  · obtain ⟨e, ha⟩ := rstAtAccess_iff.1 hx
    exact ⟨_, chProbe_rst ha, rfl⟩

/-- Settles O29: the offer stands, and each answer of the port says what becomes of the byte. -/
theorem pushAppendsTheByte : Obligations.PushAppendsTheByte := by
  unfold Obligations.PushAppendsTheByte
  refine fun s b => ⟨⟨rfl, rfl⟩, fun hv he hx => ?_, fun _ he hx => ?_, fun hv hx => ?_, fun hx => ?_⟩
  · obtain ⟨ha, _⟩ | ⟨_, _, e⟩ | ⟨_, e⟩ := wrPort_cases hx
    · exact ⟨_, chPush_ok ha, rfl⟩
    · simp [e] at he
    · simp [e] at hv
  · obtain ⟨_, e⟩ | ⟨m, ha, _⟩ | ⟨_, e⟩ := wrPort_cases hx
    · simp [e] at he
    · refine ⟨_, chPush_err ha, ?_⟩
      cases m <;> simp
    · simp [e] at he
  · obtain ⟨_, e⟩ | ⟨_, _, e⟩ | ⟨ha, _⟩ := wrPort_cases hx
    · simp [e] at hv
    · simp [e] at hv
    · exact chPush_never ha
  · obtain ⟨e, ha⟩ := rstAtAccess_iff.1 hx
    refine ⟨_, chPush_rst ha, ?_⟩
    cases e with
    | waiting => exact .inl (by simp)
    | answered failing moved =>
      cases moved with
      | false => exact .inl (by simp)
      | true => exact .inr (by simp [wrPort_rst_answered ha])

/-- Settles O43: the refilled accumulator gives its top bit. -/
theorem readBitRefillsTheAccumulator : Obligations.ReadBitRefillsTheAccumulator := by
  unfold Obligations.ReadBitRefillsTheAccumulator
  intro s b bs hr hl hb hi ha hq
  have e : rb s = takeBit (refilled b bs s) := by
    rw [rb_eq_refill hl hb, refill_ok_cons ha hi, probeLoaded_popped hq]
  have hacc : b &&& 0x7F = (extract (refilled b bs s)).2.acc := by simp
  rw [exec_readBit hr, readBitBody, e, hacc, ← bitData_eq_ite, List.append_cons s.accesses, List.append_cons s.shown]
  rfl

/-- Settles O45: both commands begin with a pop, and after a byte comes a probe. -/
theorem readAccessFails : Obligations.ReadAccessFails := by
  unfold Obligations.ReadAccessFails
  intro i s hi hr hl
  obtain ⟨k, e⟩ := PopsFirst.exec_pop hi hr hl
  refine ⟨fun m ha => ?_, fun m b bs hc ha hq => ?_, fun ha => ?_, fun b bs hc ha hq => ?_⟩
  · rw [e, chPop_err ha]
    exact ⟨_, rfl, rfl, by simp, by simp, rfl, by simp, by simp, by simp⟩
  · obtain ⟨u, k, rfl | rfl, e⟩ := PopsFirst.exec_probe hi hr hl hc ha
    · rw [e, chProbe_err ((answer_popped b bs s).trans hq)]
      exact ⟨_, rfl, rfl, rfl, rfl, rfl, rfl, rfl, by simp [popped]⟩
    · rw [e, chProbe_err ((answer_held b bs s).trans hq)]
      exact ⟨_, rfl, rfl, rfl, rfl, rfl, rfl, rfl, by simp [held]⟩
  · rw [e, chPop_never ha, finish_silent]
  · obtain ⟨u, k, rfl | rfl, e⟩ := PopsFirst.exec_probe hi hr hl hc ha
    · rw [e, chProbe_never ((answer_popped b bs s).trans hq), finish_silent]
    · rw [e, chProbe_never ((answer_held b bs s).trans hq), finish_silent]

end
section
/-! SUPPORT. The encoding: the fields a command word has, decoding against encoding, and the rows of the opcode map
(30_encoding.md R54 to R58). -/

namespace Sys2Proof

variable {i : Instr} {w : Word}

/-- A field as a bit string and as a number. -/
theorem extractLsb'_eq_iff (w : Word) (lo len : Nat) (x : BitVec len) :
    w.extractLsb' lo len = x ↔ field w lo len = x.toNat := BitVec.toNat_inj.symm

/-! ### Decoding (R58) -/

/-- The fields of a command's word (R55, R56). -/
inductive HasFields (w : Word) : Instr → Prop
  | constructR {pad : BitVec 3} (hop : field w 12 4 = 1) (hlow : field w 0 8 = 0) (hmode : w.getLsbD 11 = false)
      (hpad : field w 8 3 = pad.toNat) : HasFields w (.constructR pad)
  | constructW (hop : field w 12 4 = 1) (hlow : field w 0 8 = 0) (hmode : w.getLsbD 11 = true)
      (hpad : field w 8 3 = 0) : HasFields w .constructW
  | writeBit {sym : Byte} (hop : field w 12 4 = 2) (hres : field w 8 4 = 0) (hsym : field w 0 8 = sym.toNat) :
      HasFields w (.writeBit sym)
  | readBit (hop : field w 12 4 = 3) (hres : field w 0 12 = 0) : HasFields w .readBit
  | readByte (hop : field w 12 4 = 4) (hres : field w 0 12 = 0) : HasFields w .readByte
  | readNbits {n : Nat} (hop : field w 12 4 = 5) (hres : field w 7 5 = 0) (hn : field w 0 7 = n) :
      HasFields w (.readNbits n)
  | close (hop : field w 12 4 = 6) (hres : field w 0 12 = 0) : HasFields w .close

/-- No assigned OP, a reserved bit set, or CONSTRUCT Write with PAD not 0 (R57). -/
def Illegal (w : Word) : Prop :=
  (field w 12 4 = 0 ∨ 7 ≤ field w 12 4) ∨
  (field w 12 4 = 1 ∧ (field w 0 8 ≠ 0 ∨ (w.getLsbD 11 = true ∧ field w 8 3 ≠ 0))) ∨
  (field w 12 4 = 2 ∧ field w 8 4 ≠ 0) ∨
  ((field w 12 4 = 3 ∨ field w 12 4 = 4 ∨ field w 12 4 = 6) ∧ field w 0 12 ≠ 0) ∨
  (field w 12 4 = 5 ∧ field w 7 5 ≠ 0)

/-- A word that is not illegal has the fields of a command. -/
theorem exists_hasFields (h : ¬ Illegal w) : ∃ i, HasFields w i := by
  have hop : field w 12 4 = 1 ∨ field w 12 4 = 2 ∨ field w 12 4 = 3 ∨ field w 12 4 = 4 ∨ field w 12 4 = 5 ∨
      field w 12 4 = 6 := by
    simp only [Illegal, not_or] at h
    omega
  obtain hop | hop | hop | hop | hop | hop := hop <;> simp only [Illegal, hop] at h <;> norm_num at h
  · obtain ⟨hlow, hpad⟩ := h
    cases hmode : w.getLsbD 11 with
    | false => exact ⟨_, .constructR hop hlow hmode rfl⟩
    | true => exact ⟨_, .constructW hop hlow hmode (hpad hmode)⟩
  · exact ⟨_, .writeBit (sym := w.extractLsb' 0 8) hop h rfl⟩
  · exact ⟨_, .readBit hop h⟩
  · exact ⟨_, .readByte hop h⟩
  · exact ⟨_, .readNbits hop h rfl⟩
  · exact ⟨_, .close hop h⟩

theorem decode_of_hasFields (h : HasFields w i) : decode w = some i := by
  cases h with
  | constructR hop hlow hmode hpad =>
    simp only [decode, hop, hlow, hmode, (extractLsb'_eq_iff w 8 3 _).2 hpad]
    rfl
  | constructW hop hlow hmode hpad => simp only [decode, hop, hlow, hmode, hpad]; rfl
  | writeBit hop hres hsym =>
    simp [decode, hop, hres, (extractLsb'_eq_iff w 0 8 _).2 hsym]
  | readBit hop hres => simp [decode, hop, hres]
  | readByte hop hres => simp [decode, hop, hres]
  | readNbits hop hres hn => simp [decode, hop, hres, hn]
  | close hop hres => simp [decode, hop, hres]

theorem decode_of_illegal (h : Illegal w) : decode w = none := by
  obtain (hop | hop) | ⟨hop, hlow | ⟨hmode, hpad⟩⟩ | ⟨hop, hres⟩ | ⟨hop | hop | hop, hres⟩ | ⟨hop, hres⟩ := h
  · simp [decode, hop]
  · unfold decode
    split
    case h_7 => rfl
    all_goals omega
  · simp [decode, hop, hlow]
  · simp only [decode, hop, hmode, if_true, if_pos hpad, ite_self]
  all_goals simp [decode, hop, hres]

theorem decode_eq_none_iff : decode w = none ↔ Illegal w := by
  refine ⟨fun h => ?_, decode_of_illegal⟩
  by_contra hl
  obtain ⟨i, hi⟩ := exists_hasFields hl
  simp [decode_of_hasFields hi] at h

theorem hasFields_of_decode (h : decode w = some i) : HasFields w i := by
  obtain ⟨j, hj⟩ : ∃ j, HasFields w j := exists_hasFields fun hl => by simp [decode_of_illegal hl] at h
  obtain rfl : j = i := Option.some.inj ((decode_of_hasFields hj).symm.trans h)
  exact hj

/-! ### Encoding (R54, R55) -/

theorem hasFields_encode (h : i.wf = true) : HasFields (encode i) i := by
  cases i with
  | constructR pad =>
    have hp := pad.isLt
    have e := encode_constructR_toNat pad
    refine .constructR ?_ ?_ ?_ ?_ <;> simp only [field_eq, testBit11, decide_eq_false_iff_not, e] <;> omega
  | constructW => exact .constructW rfl rfl rfl rfl
  | writeBit sym =>
    have hs := sym.isLt
    have e := encode_writeBit_toNat sym
    refine .writeBit ?_ ?_ ?_ <;> simp only [field_eq, e] <;> omega
  | readBit => exact .readBit rfl rfl
  | readByte => exact .readByte rfl rfl
  | readNbits n =>
    have hn : n < 128 := by simpa [Instr.wf] using h
    have e := encode_readNbits_toNat hn
    refine .readNbits ?_ ?_ ?_ <;> simp only [field_eq, e] <;> omega
  | close => exact .close rfl rfl

theorem decode_encode (h : i.wf = true) : decode (encode i) = some i := decode_of_hasFields (hasFields_encode h)

theorem HasFields.wf (h : HasFields w i) : i.wf = true := by
  cases h with
  | readNbits _ _ hn =>
    simp only [Instr.wf, ← hn, field_eq, decide_eq_true_iff]
    omega
  | _ => rfl

/-- A word is its OP and its low twelve bits (R54). -/
theorem toNat_eq_op_add (w : Word) : w.toNat = 4096 * field w 12 4 + field w 0 12 := by
  have hw := w.isLt
  simp only [field_eq]
  omega

/-- A word with a command's fields is its word. -/
theorem HasFields.encode_eq (h : HasFields w i) : encode i = w := by
  have hw := w.isLt
  refine BitVec.eq_of_toNat_eq ?_
  cases h with
  | constructR hop hlow hmode hpad =>
    simp only [field_eq, testBit11, decide_eq_false_iff_not] at hop hlow hmode hpad
    rw [encode_constructR_toNat]
    omega
  | constructW hop hlow hmode hpad =>
    simp only [field_eq, testBit11, decide_eq_true_iff] at hop hlow hmode hpad
    rw [show (encode .constructW).toNat = 6144 from rfl]
    omega
  | writeBit hop hres hsym =>
    simp only [field_eq] at hop hres hsym
    rw [encode_writeBit_toNat]
    omega
  | readBit hop hres => rw [toNat_eq_op_add w, hop, hres]; rfl
  | readByte hop hres => rw [toNat_eq_op_add w, hop, hres]; rfl
  | readNbits hop hres hn =>
    simp only [field_eq] at hop hres hn
    rw [encode_readNbits_toNat (by omega)]
    omega
  | close hop hres => rw [toNat_eq_op_add w, hop, hres]; rfl

/-! ### The opcode map (R56) -/

/-- The mask of a field of `len` bits that begins at bit `lo`. -/
abbrev fieldMask (lo len : Nat) : Word := (BitVec.allOnes len).setWidth 16 <<< lo

/-- The bits of a word under a field's mask are the field in its place. -/
theorem and_fieldMask (w : Word) (lo len : Nat) :
    w &&& fieldMask lo len = (w.extractLsb' lo len).setWidth 16 <<< lo := by
  ext j hj
  by_cases h : j < lo
  · simp [h]
  · simp [h, Nat.add_sub_cancel' (Nat.le_of_not_lt h), hj, Bool.and_comm]

/-- A word is its pattern under a mask and the bits the mask leaves out. -/
theorem eq_or_of_and_eq {m p : Word} (h : w &&& m = p) : w = p ||| w &&& ~~~m := by
  rw [← h, ← BitVec.and_or_distrib_left, BitVec.or_not_self, BitVec.and_allOnes]

/-- A row whose mask leaves out one field: the word is the pattern with that field in its place. -/
theorem eq_or_field {m p : Word} (lo len : Nat) (hm : ~~~m = fieldMask lo len) (h : w &&& m = p) :
    w = p ||| (w.extractLsb' lo len).setWidth 16 <<< lo := by
  rw [← and_fieldMask, ← hm]
  exact eq_or_of_and_eq h

/-- A row of the opcode map is selected by command words only. -/
theorem exists_encode_of_selects {r : OpcodeRow} (hr : r ∈ opcodeTable) (h : r.selects w = true) :
    ∃ i, Instr.wf i = true ∧ encode i = w := by
  have h' : w &&& r.mask = r.pattern := by simpa [OpcodeRow.selects] using h
  have hfull {p : Word} (h : w &&& 0xFFFF = p) : p = w := h.symm.trans BitVec.and_allOnes
  simp only [opcodeTable, List.mem_cons, List.not_mem_nil, or_false] at hr
  obtain rfl | rfl | rfl | rfl | rfl | rfl | rfl := hr
  · exact ⟨.constructR (w.extractLsb' 8 3), rfl, (eq_or_field 8 3 (by decide) h').symm⟩
  · exact ⟨.constructW, rfl, hfull h'⟩
  · refine ⟨.writeBit (w.extractLsb' 0 8), rfl, ?_⟩
    simpa [encode] using (eq_or_field 0 8 (by decide) h').symm
  · exact ⟨.readBit, rfl, hfull h'⟩
  · exact ⟨.readByte, rfl, hfull h'⟩
  · refine ⟨.readNbits (field w 0 7), by simp [Instr.wf, field_eq]; omega, ?_⟩
    have e : BitVec.ofNat 16 (field w 0 7) = (w.extractLsb' 0 7).setWidth 16 := BitVec.ofNat_toNat _ _
    simpa [encode, e] using (eq_or_field 0 7 (by decide) h').symm
  · exact ⟨.close, rfl, hfull h'⟩

/-- No row is selected by a word that does not decode. -/
theorem selects_eq_false_of_decode {r : OpcodeRow} (hr : r ∈ opcodeTable) (h : decode w = none) :
    r.selects w = false := by
  by_contra hs
  obtain ⟨i, hi, rfl⟩ := exists_encode_of_selects hr (by simpa using hs)
  simp [decode_encode hi] at h

/-- The mnemonics of the rows a word selects. -/
abbrev selectedMnemonics (w : Word) : List String :=
  (opcodeTable.filter fun r => r.selects w).map fun r => r.mnemonic

/-- A command's word selects one row. -/
theorem selectedMnemonics_encode (h : i.wf = true) : selectedMnemonics (encode i) = [i.mnemonic] := by
  cases i with
  | constructR pad => revert pad; decide
  | constructW => decide
  | writeBit sym => revert sym; decide
  | readBit => decide
  | readByte => decide
  | readNbits n =>
    have hn : n < 128 := by simpa [Instr.wf] using h
    have key : ∀ n < 128, selectedMnemonics (encode (.readNbits n)) = ["READ_NBITS"] := by decide
    exact key n hn
  | close => decide

end Sys2Proof
end

section

open Sys2Proof Sys2Proof.Machine

/-- Settles O12: a command's word has the command's fields, and the fields make up the word. -/
theorem decodeAndEncodeAreInverse : Obligations.DecodeAndEncodeAreInverse := by
  unfold Obligations.DecodeAndEncodeAreInverse
  refine ⟨fun i h => decode_encode h, fun w i h => ?_⟩
  have hf := hasFields_of_decode h
  exact ⟨hf.wf, hf.encode_eq⟩

/-- Settles O13: a word that decodes is its command's, and the words a row selects all decode. -/
theorem opcodeMapSelectsOneRowOrNone : Obligations.OpcodeMapSelectsOneRowOrNone := by
  unfold Obligations.OpcodeMapSelectsOneRowOrNone
  refine ⟨fun w => ?_, fun w hop r hr => ?_, by decide⟩
  · cases hd : decode w with
    | none => simpa using fun r hr => selects_eq_false_of_decode hr hd
    | some i =>
      have hf := hasFields_of_decode hd
      rw [← hf.encode_eq]
      exact selectedMnemonics_encode hf.wf
  · rw [extractLsb'_eq_iff] at hop
    exact selects_eq_false_of_decode hr (decode_eq_none_iff.2 (.inl hop))

/-- Settles O11: each word is small enough to run the decoder on. -/
theorem wordsDecodeToTheirCommands : Obligations.WordsDecodeToTheirCommands := by
  unfold Obligations.WordsDecodeToTheirCommands
  decide

end
section
/-! SUPPORT. A step on a waiting word, the statuses of the checks, and the data of READ_NBITS (30_encoding.md R57, R60,
60_exceptions.md R85). -/

namespace Sys2Proof.Machine

open Sys2Proof

variable {i : Instr} {s t u : State}

/-! ### A waiting word (R50, R64) -/

/-- With `cmd_ready` = 1 a step takes the waiting word and runs it. -/
theorem step_eq_runWord {w : Word} (hr : Ready s) (hw : s.cmd = some w) :
    step s = runWord w { s with cmd := none } := by
  have hc : cmdReady s = true := hr
  simp [step, stepOnce, hc, hw]

theorem runWord_some {w : Word} (h : decode w = some i) : runWord w s = exec i s := by
  simp [runWord, h]

theorem runWord_none {w : Word} (h : decode w = none) : runWord w s = .next (s.load .errIllegal 0) := by
  simp [runWord, h, execIllegal]

/-! ### The checks (R85) -/

theorem check_writeBit_badSym {sym : Byte} (hw : Writing s) (hs : symLegal sym = false) :
    check (.writeBit sym) s = some .errSymbol := by
  simp [check, lifecycleError, modeError, operandError, needsMode, isConstruct, hw.1, hw.2, hs]

theorem check_readNbits_tooMany {n : Nat} (hr : Reading s) (hn : 64 < n) :
    check (.readNbits n) s = some .errNbits := by
  have hl : nbitsLegal n = false := decide_eq_false (Nat.not_le.2 hn)
  simp [check, lifecycleError, modeError, operandError, needsMode, isConstruct, hr.1, hr.2, hl]

theorem lifecycleError_ne_ok (i : Instr) (l : LC) : lifecycleError i l ≠ some .ok := by
  cases l <;> simp [lifecycleError]

theorem modeError_ne_ok (i : Instr) (m : Mode) : modeError i m ≠ some .ok := by
  unfold modeError
  split
  · simp
  · split <;> simp

theorem operandError_ne_ok (i : Instr) : operandError i ≠ some .ok := by
  cases i <;> simp [operandError]

/-- A refusal never has the status OK. -/
theorem check_ne_ok (i : Instr) (s : State) : check i s ≠ some .ok := by
  simp [check, Option.or_eq_some_iff, lifecycleError_ne_ok, modeError_ne_ok, operandError_ne_ok]

/-! ### Responses (R59, R60) -/

theorem statusCode_le (st : Status) : (statusCode st).toNat ≤ 9 := by cases st <;> decide

/-- `k` bits gathered and `n` more are a number below 2^(k + n) (R78). -/
theorem gather_toNat_lt {n k : Nat} {v d : Data} (hv : v.toNat < 2 ^ k) (hk : k + n ≤ 64)
    (h : gather n v s = .done (some d) t) : d.toNat < 2 ^ (k + n) := by
  induction n generalizing k v s with
  | zero =>
    cases h
    exact hv
  | succ n ih =>
    obtain ⟨r, u, _, hg⟩ := bind_eq_done h
    cases r with
    | bit b =>
      have hb := b.toNat_le
      have hlt : (appendBit v b).toNat < 2 ^ (k + 1) := by
        rw [appendBit_toNat v b (hv.trans_le (Nat.pow_le_pow_right (by decide) (by omega))), Nat.pow_succ]
        omega
      rw [← Nat.add_assoc, Nat.add_right_comm]
      exact ih hlt (by omega) hg
    | eod => cases hg

theorem bitData_toNat_le (b : Bool) : (bitData b).toNat ≤ 1 := by cases b <;> decide

theorem byteData_toNat_lt (b : Byte) : (byteData b).toNat < 256 := by
  have := b.isLt
  simp only [byteData, BitVec.toNat_setWidth]
  omega

/-- The padding count of a final byte that holds bits (R43, R80). -/
theorem countData_padCount_toNat {k : Fin 9} (h : k.val ≠ 0) :
    (countData (padCount k)).toNat = padOf k.val ∧ padOf k.val ≤ 7 := by
  revert k; decide

/-- A response other than OK has data 0. -/
theorem exec_rsp_data {r : Response} (h : exec i s = .next t) (hr : t.rsp = some r) (hst : r.status ≠ .ok) :
    r.data = 0 := by
  cases exec_ends h with
  | answered _ hd => cases hr; exact hd hst
  | opened _ _ _ => cases hr; rfl
  | ioFailed _ _ _ => cases hr; rfl
  | released _ _ _ hd => cases hr; exact hd hst
  | abandoned _ _ => cases hr

/-- A command that answers OK passed its checks. -/
theorem ran_of_ok {d : Data} (h : exec i s = .next t) (hr : t.rsp = some ⟨.ok, d⟩) : Ran i s t := by
  obtain ⟨st, hc, rfl⟩ | ⟨_, h⟩ := exec_next h
  · cases hr
    exact absurd hc (check_ne_ok i s)
  · exact h

/-- A command whose failed access is `fail_io()` answers OK only where its body is done. -/
theorem finish_ok {α : Type} {r : Result α} {k : α → State → Out} {d : Data} (h : r.finish k = .next t)
    (hr : t.rsp = some ⟨.ok, d⟩) : ∃ a u, r = .done a u ∧ k a u = .next t := by
  obtain h | ⟨u, _, rfl⟩ | ⟨u, _, rfl⟩ := finish_next h
  · exact h
  · cases hr
  · cases hr

theorem writeBitBody_ok_data {b : Bool} {d : Data} (h : writeBitBody b s = .next t)
    (hr : t.rsp = some ⟨.ok, d⟩) : d = 0 := by
  obtain ⟨_, _, _, e⟩ | ⟨_, _, e⟩ | ⟨_, _, _, e⟩ | ⟨_, _, _, e⟩ | ⟨_, _, e⟩ | ⟨_, e⟩ := writeBitBody_cases b s <;>
    rw [e] at h <;> cases h <;> cases hr
  · rfl
  · rfl

theorem readBitBody_ok_data {d : Data} (h : readBitBody s = .next t) (hr : t.rsp = some ⟨.ok, d⟩) :
    d.toNat ≤ 1 := by
  obtain ⟨p, u, _, hk⟩ := finish_ok h hr
  cases p with
  | bit b =>
    cases hk
    cases hr
    exact bitData_toNat_le b
  | eod =>
    cases hk
    cases hr

theorem readByteBody_ok_data {d : Data} (h : readByteBody s = .next t) (hr : t.rsp = some ⟨.ok, d⟩) :
    d.toNat < 256 := by
  obtain ⟨_, e⟩ | ⟨_, ⟨_, _, e⟩ | ⟨b, _, _, _, _, e⟩ | ⟨_, _, _, _, _, _, e⟩ | ⟨_, _, _, _, _, _, e⟩ |
    ⟨_, _, _, _, _, e⟩ | ⟨_, _, e⟩ | ⟨_, _, e⟩ | ⟨_, e⟩⟩ := readByteBody_cases s <;>
    rw [e] at h <;> cases h <;> cases hr
  exact byteData_toNat_lt b

theorem readNbitsBody_ok_data {n : Nat} {d : Data} (hn : n ≤ 64) (h : readNbitsBody n s = .next t)
    (hr : t.rsp = some ⟨.ok, d⟩) : d.toNat < 2 ^ n := by
  obtain ⟨p, u, hg, hk⟩ := finish_ok h hr
  cases p with
  | some v =>
    cases hk
    cases hr
    simpa using gather_toNat_lt (k := 0) (by decide) (by omega) hg
  | none =>
    cases hk
    cases hr

theorem closeBody_ok_data {d : Data} (h : closeBody s = .next t) (hr : t.rsp = some ⟨.ok, d⟩) :
    (s.mode = .read → d = 0) ∧ (s.mode = .write → d.toNat = padOf s.boff.val ∧ d.toNat ≤ 7) := by
  obtain ⟨_, e⟩ | ⟨_, h0, e⟩ | ⟨_, hm, hb, ⟨_, e⟩ | ⟨_, _, e⟩ | ⟨_, _, e⟩ | ⟨_, e⟩⟩ := closeBody_cases s <;>
    rw [e] at h <;> cases h <;> cases hr
  · exact ⟨fun _ => rfl, fun hm => by rw [h0 hm]; decide⟩
  · have hd := countData_padCount_toNat hb
    exact ⟨fun hr => by simp [hm] at hr, fun _ => ⟨hd.1, hd.1.trans_le hd.2⟩⟩

end Sys2Proof.Machine
end

section

open Sys2Proof Sys2Proof.Machine

/-- Settles O14: by the fields, then by the first failed check. -/
theorem illegalWordsAreAnsweredErrIllegal : Obligations.IllegalWordsAreAnsweredErrIllegal := by
  unfold Obligations.IllegalWordsAreAnsweredErrIllegal
  refine ⟨fun w => ?_, fun s w hr hw hd => ?_, fun sym => decode_encode (i := .writeBit sym) rfl,
    fun n hn => decode_encode (i := .readNbits n) (by simpa [Instr.wf] using hn), fun s sym hw h0 h1 => ?_,
    fun s n hr hn => exec_refused (check_readNbits_tooMany hr hn)⟩
  · simp only [ne_eq, extractLsb'_eq_iff]
    exact decode_eq_none_iff
  · rw [step_eq_runWord hr hw, runWord_none hd]
    rfl
  · exact exec_refused (check_writeBit_badSym hw (by simpa [symLegal] using ⟨h0, h1⟩))

/-- Settles O16: a command that answers OK ran its body, and each body says what it answers. -/
theorem responseDataPerCommand : Obligations.ResponseDataPerCommand := by
  unfold Obligations.ResponseDataPerCommand
  refine fun i s t r h hr => ⟨exec_rsp_data h hr, fun hst => ?_⟩
  obtain ⟨st, d⟩ := r
  obtain rfl : st = .ok := hst
  have hran := ran_of_ok h hr
  cases i with
  | constructR pad =>
    obtain ⟨_, rfl⟩ := hran
    cases hr
    rfl
  | constructW =>
    obtain ⟨_, rfl⟩ := hran
    cases hr
    rfl
  | writeBit sym =>
    obtain ⟨_, _, hb⟩ := hran
    exact writeBitBody_ok_data hb hr
  | readBit => exact readBitBody_ok_data hran.2 hr
  | readByte => exact readByteBody_ok_data hran.2 hr
  | readNbits n =>
    obtain ⟨_, hn, hb⟩ := hran
    exact readNbitsBody_ok_data hn hb hr
  | close =>
    obtain ⟨hread, hwrite⟩ := closeBody_ok_data hran.2 hr
    exact ⟨hread, fun hm _ => hwrite hm⟩

/-- Settles O18: a port that is not ready leaves the step to the host. -/
theorem busyPortHoldsTheWord : Obligations.BusyPortHoldsTheWord := by
  unfold Obligations.BusyPortHoldsTheWord
  refine ⟨fun s => ready_iff, fun s t w hc hw hs => ?_⟩
  have hn : ¬ Ready s := fun hr => by simp [outputs, outputsDuring, hr] at hc
  rw [step_eq_hostMove fun hr => absurd hr hn] at hs
  obtain ⟨_, rfl⟩ | ⟨_, _, _, hw', _⟩ | ⟨_, _, rfl⟩ | ⟨_, _, rfl⟩ | ⟨_, _, rfl⟩ | ⟨_, _, _, _, rfl⟩ :=
    hostMove_cases hs
  · exact ⟨hw, rfl, rfl, .inl rfl⟩
  · simp [hw'] at hw
  · exact ⟨hw, rfl, rfl, .inl rfl⟩
  · exact ⟨hw, rfl, rfl, .inr ⟨rfl, rfl⟩⟩
  · exact ⟨hw, rfl, rfl, .inl rfl⟩
  · exact ⟨hw, rfl, rfl, .inl rfl⟩

/-- Settles O15: every status has a code of R59, and a response holds a status. -/
theorem statusCodesAreAsListed : Obligations.StatusCodesAreAsListed := by
  unfold Obligations.StatusCodesAreAsListed
  refine ⟨rfl, rfl, rfl, rfl, rfl, rfl, rfl, rfl, rfl, rfl, fun s c h => ?_⟩
  obtain ⟨r, _, rfl⟩ := Option.map_eq_some_iff.1 h
  exact statusCode_le r.status

/-- Settles O17: the port is ready in a state that `withFetchWord` gives. -/
theorem stepRunsTheDecodedCommand : Obligations.StepRunsTheDecodedCommand := by
  unfold Obligations.StepRunsTheDecodedCommand
  refine ⟨fun s w i hr hw hd => ?_, fun s w i _ hd => ?_⟩
  · rw [step_eq_runWord hr hw, runWord_some hd]
  · rw [step_eq_runWord rfl rfl, runWord_some hd]
    rfl

end
section
/-! SUPPORT. A command does not look at what the host does next: with other events pending it does the same
(30_encoding.md R50, 70_reset_and_hazards.md R106). -/

namespace Sys2Proof.Machine

open Sys2Proof

variable {s t : State} (es : List HostEvent)

/-- The state with these events of the host pending. -/
def withHost (es : List HostEvent) (s : State) : State := { s with host := es }

/-- A piece of a command with these events of the host pending in the state it carries. -/
def Result.withHost {α : Type} (es : List HostEvent) (r : Result α) : Result α :=
  match r with
  | .done a s => .done a (Machine.withHost es s)
  | .failed s => .failed (Machine.withHost es s)
  | .abandoned s => .abandoned (Machine.withHost es s)
  | .silent => .silent

/-- An outcome with these events of the host pending. -/
def outWithHost (es : List HostEvent) (o : Out) : Out :=
  match o with
  | .next s => .next (withHost es s)
  | .fault f => .fault f
  | .refused r => .refused r

/-! ### Pieces put together -/

theorem bind_withHost {α β : Type} {k : α → State → Result β} (r : Result α)
    (hk : ∀ a u, k a (withHost es u) = (k a u).withHost es) :
    (r.withHost es).bind k = (r.bind k).withHost es := by
  cases r with
  | done a u => exact hk a u
  | failed u => rfl
  | abandoned u => rfl
  | silent => rfl

theorem finishWith_withHost {α : Type} {f : State → Out} {k : α → State → Out} (r : Result α)
    (hf : ∀ u, f (withHost es u) = outWithHost es (f u))
    (hk : ∀ a u, k a (withHost es u) = outWithHost es (k a u)) :
    (r.withHost es).finishWith f k = outWithHost es (r.finishWith f k) := by
  cases r with
  | done a u => exact hk a u
  | failed u => exact hf u
  | abandoned u => rfl
  | silent => rfl

theorem finish_withHost {α : Type} {k : α → State → Out} (r : Result α)
    (hk : ∀ a u, k a (withHost es u) = outWithHost es (k a u)) :
    (r.withHost es).finish k = outWithHost es (r.finish k) :=
  finishWith_withHost es r (fun _ => rfl) hk

theorem guarded_withHost {i : Instr} {body : State → Out} (s : State)
    (hb : body (withHost es s) = outWithHost es (body s)) :
    guarded i (withHost es s) body = outWithHost es (guarded i s body) := by
  have hc : check i (withHost es s) = check i s := rfl
  cases h : check i s with
  | none => rw [guarded_none (hc.trans h), guarded_none h, hb]
  | some st => rw [guarded_some (hc.trans h), guarded_some h]; rfl

/-! ### The accesses -/

theorem answer_withHost (s : State) : (withHost es s).answer = s.answer := rfl

theorem chPop_withHost (s : State) : chPop (withHost es s) = (chPop s).withHost es := by
  have ha := answer_withHost es s
  obtain h | ⟨m, h⟩ | ⟨e, h⟩ | h := answer_cases s
  · cases hc : s.chIn with
    | nil => rw [chPop_ok_nil h hc, chPop_ok_nil (ha.trans h) hc]; rfl
    | cons b bs => rw [chPop_ok_cons h hc, chPop_ok_cons (ha.trans h) hc]; rfl
  · rw [chPop_err h, chPop_err (ha.trans h)]; cases m <;> rfl
  · rw [chPop_rst h, chPop_rst (ha.trans h)]; cases e.moved <;> rfl
  · rw [chPop_never h, chPop_never (ha.trans h)]; rfl

theorem chProbe_withHost (s : State) : chProbe (withHost es s) = (chProbe s).withHost es := by
  have ha := answer_withHost es s
  obtain h | ⟨m, h⟩ | ⟨e, h⟩ | h := answer_cases s
  · rw [chProbe_ok h, chProbe_ok (ha.trans h)]; rfl
  · rw [chProbe_err h, chProbe_err (ha.trans h)]; rfl
  · rw [chProbe_rst h, chProbe_rst (ha.trans h)]; rfl
  · rw [chProbe_never h, chProbe_never (ha.trans h)]; rfl

theorem chPush_withHost (b : Byte) (s : State) : chPush b (withHost es s) = (chPush b s).withHost es := by
  have ha := answer_withHost es s
  obtain h | ⟨m, h⟩ | ⟨e, h⟩ | h := answer_cases s
  · rw [chPush_ok h, chPush_ok (ha.trans h)]; rfl
  · rw [chPush_err h, chPush_err (ha.trans h)]; cases m <;> rfl
  · rw [chPush_rst h, chPush_rst (ha.trans h)]; cases e.moved <;> rfl
  · rw [chPush_never h, chPush_never (ha.trans h)]; rfl

/-! ### Reading -/

theorem probeLoaded_withHost (s : State) : probeLoaded (withHost es s) = (probeLoaded s).withHost es := by
  rw [probeLoaded, chProbe_withHost]
  refine bind_withHost es _ fun q u => ?_
  have he : atEnd ((withHost es u).setLast (lastOfProbe q)) = atEnd (u.setLast (lastOfProbe q)) := rfl
  rw [he]
  split
  · rfl
  · rfl

theorem refill_withHost (s : State) : refill (withHost es s) = (refill s).withHost es := by
  rw [refill, chPop_withHost]
  refine bind_withHost es _ fun p u => ?_
  cases p with
  | eos => rfl
  | byte r => exact probeLoaded_withHost es (loadAcc r u)

theorem rb_withHost (s : State) : rb (withHost es s) = (rb s).withHost es := by
  have he : atEnd (withHost es s) = atEnd s := rfl
  have hb : (withHost es s).boff = s.boff := rfl
  unfold rb
  rw [he, hb]
  split
  · rfl
  · split
    · exact refill_withHost es s
    · rfl

theorem gather_withHost (n : Nat) (v : Data) (s : State) :
    gather n v (withHost es s) = (gather n v s).withHost es := by
  induction n generalizing v s with
  | zero => rfl
  | succ n ih =>
    rw [gather, rb_withHost]
    refine bind_withHost es _ fun r u => ?_
    cases r with
    | bit b => exact ih (appendBit v b) u
    | eod => rfl

/-! ### The bodies -/

theorem readBitBody_withHost (s : State) : readBitBody (withHost es s) = outWithHost es (readBitBody s) := by
  rw [readBitBody, rb_withHost]
  refine finish_withHost es _ fun r u => ?_
  cases r <;> rfl

theorem readByteBody_withHost (s : State) : readByteBody (withHost es s) = outWithHost es (readByteBody s) := by
  have hl : (withHost es s).last = s.last := rfl
  unfold readByteBody
  rw [hl, chPop_withHost]
  split
  · rfl
  · refine finish_withHost es _ fun p u => ?_
    cases p with
    | eos => rfl
    | byte r =>
      have hh : holdByte r (withHost es u) = withHost es (holdByte r u) := rfl
      simp only [hh, chProbe_withHost]
      exact finish_withHost es _ fun _ _ => rfl

theorem readNbitsBody_withHost (n : Nat) (s : State) :
    readNbitsBody n (withHost es s) = outWithHost es (readNbitsBody n s) := by
  rw [readNbitsBody, gather_withHost]
  refine finish_withHost es _ fun r u => ?_
  cases r <;> rfl

theorem writeBitBody_withHost (b : Bool) (s : State) :
    writeBitBody b (withHost es s) = outWithHost es (writeBitBody b s) := by
  have hb : (withHost es s).boff = s.boff := rfl
  unfold writeBitBody
  rw [hb]
  split
  · rfl
  · next k _ =>
    have ht : ({ withHost es s with acc := placeBit b (withHost es s).acc, boff := k } : State) =
      withHost es { s with acc := placeBit b s.acc, boff := k } := rfl
    dsimp only
    split
    · rw [ht, chPush_withHost]
      exact finish_withHost es _ fun _ _ => rfl
    · rfl

theorem closeWrite_withHost (s : State) : closeWrite (withHost es s) = outWithHost es (closeWrite s) := by
  have hb : (withHost es s).boff = s.boff := rfl
  have hf : finalByte (withHost es s) = finalByte s := rfl
  unfold closeWrite
  rw [hb, hf, chPush_withHost]
  split
  · rfl
  · exact finishWith_withHost es _ (fun _ => rfl) fun _ _ => rfl

theorem closeBody_withHost (s : State) : closeBody (withHost es s) = outWithHost es (closeBody s) := by
  have hl : (withHost es s).lc = s.lc := rfl
  have hm : (withHost es s).mode = s.mode := rfl
  unfold closeBody
  rw [hl, hm]
  split
  · rfl
  · exact closeWrite_withHost es s
  · rfl

/-- A command with other host events pending does the same. -/
theorem exec_withHost (i : Instr) (s : State) : exec i (withHost es s) = outWithHost es (exec i s) := by
  cases i with
  | constructR pad => exact guarded_withHost es s rfl
  | constructW => exact guarded_withHost es s rfl
  | writeBit sym => exact guarded_withHost es s (writeBitBody_withHost es _ s)
  | readBit => exact guarded_withHost es s (readBitBody_withHost es s)
  | readByte => exact guarded_withHost es s (readByteBody_withHost es s)
  | readNbits n => exact guarded_withHost es s (readNbitsBody_withHost es n s)
  | close => exact guarded_withHost es s (closeBody_withHost es s)

theorem runWord_withHost (w : Word) (s : State) : runWord w (withHost es s) = outWithHost es (runWord w s) := by
  cases hd : decode w with
  | none => rw [runWord_none hd, runWord_none hd]; rfl
  | some i => rw [runWord_some hd, runWord_some hd, exec_withHost]

/-! ### Issuing a word (R50, R52) -/

/-- What a host that issues a word and gets a response has seen: the port was ready, and the word ran to the response. -/
theorem issue_some {w : Word} {r : Response} (h : issue w s = some (r, t)) :
    ∃ u, runWord w { s with cmd := none } = .next u ∧ u.rsp = some r ∧ t = takeResponse u := by
  unfold issue at h
  split at h
  case isFalse => cases h
  case isTrue hr =>
    rw [step_eq_runWord (s := { s with cmd := some w }) hr rfl] at h
    cases hw : runWord w { s with cmd := none } with
    | next u =>
      simp only [hw, Option.map_eq_some_iff, Prod.mk.injEq] at h
      obtain ⟨_, hu, rfl, rfl⟩ := h
      exact ⟨u, rfl, hu, rfl⟩
    | fault f => simp [hw] at h
    | refused f => simp [hw] at h

/-- A word that is answered leaves the port and the host's record alone, and `rst` low (R52). -/
theorem runWord_answered {w : Word} {r : Response} (h : runWord w s = .next t) (hr : t.rsp = some r) :
    t.cmd = s.cmd ∧ t.taken = s.taken ∧ t.rst = s.rst := by
  cases hd : decode w with
  | none =>
    rw [runWord_none hd] at h
    cases h
    exact ⟨rfl, rfl, rfl⟩
  | some i =>
    rw [runWord_some hd] at h
    obtain ⟨hc, ht, ⟨_, hx⟩ | ⟨hn, _⟩⟩ := exec_answers h
    · exact ⟨hc, ht, hx⟩
    · simp [hr] at hn

end Sys2Proof.Machine
end

section

open Sys2Proof Sys2Proof.Machine

/-- Settles O20: the host raises the word, the block runs it, and the host takes the response; the command does not look at
the events still pending. -/
theorem hostIssuesAWordInThreeSteps : Obligations.HostIssuesAWordInThreeSteps := by
  unfold Obligations.HostIssuesAWordInThreeSteps
  intro s t w r rest hr hc hh hi
  obtain ⟨u, hu, hur, rfl⟩ := issue_some hi
  obtain ⟨huc, hut, hux⟩ := runWord_answered hu hur
  have hraise : step s = .next { s with host := .take :: rest, cmd := some w } := by
    rw [step_eq_hostMove fun _ => hc, hostMove_cons hh]
    simp [hostEvent, raiseWord, hc]
  have hrun : step { s with host := .take :: rest, cmd := some w } = .next (withHost (.take :: rest) u) := by
    rw [step_eq_runWord (by exact hr) rfl]
    exact (runWord_withHost _ w { s with cmd := none }).trans (congrArg _ hu)
  have htake : step (withHost (.take :: rest) u) = .next (takeResponse (withHost rest u)) := by
    have hn : ¬ Ready (withHost (.take :: rest) u) := not_ready_of_rsp (r := r) hur
    rw [step_eq_hostMove fun h => absurd h hn, hostMove_cons rfl]
    rfl
  have htaken : (takeResponse u).taken = s.taken ++ [r] := by simp [hur, hut]
  exact ⟨_, _, _, hraise, hrun, htake, rfl, hur, htaken, htaken, rfl, rfl, rfl, huc,
    ready_iff.2 ⟨hux.trans (ready_iff.1 hr).1, rfl⟩⟩

end
section
/-! SUPPORT. CONSTRUCT where it is refused, and READ_BITs issued one after the other until the data of a Read session
ends (40_construct.md R65, R66, 42_read.md R74). -/

namespace Sys2Proof.Machine

open Sys2Proof

variable {i : Instr} {s t : State}

/-! ### The lifecycle checks (R85) -/

theorem isClose_of_isConstruct (h : isConstruct i = true) : isClose i = false := by
  cases i with
  | close => cases h
  | _ => rfl

theorem check_failed (hl : s.lc = .failed) (hi : isClose i = false) : check i s = some .errFailed := by
  simp [check, lifecycleError, hl, hi]

theorem check_construct_opened (hl : s.lc = .opened) (hi : isConstruct i = true) :
    check i s = some .errAlreadyOpen := by
  simp [check, lifecycleError, hl, hi]

/-! ### READ_BITs in a row (R74) -/

/-- The response to a one-bit step that is done. -/
def bitResponse : BitRead → Response
  | .bit b => ⟨.ok, if b then 1 else 0⟩
  | .eod => ⟨.eod, 0⟩

theorem readBitBody_of_rb {r : BitRead} (h : rb s = .done r t) :
    readBitBody s = .next (t.load (bitResponse r).status (bitResponse r).data) := by
  rw [readBitBody, h]
  cases r with
  | bit b => simp [bitResponse, bitData_eq_ite]
  | eod => rfl

/-- Loading a response and taking it leaves all that the invariant reads (R52). -/
theorem inv_takeResponse {st : Status} {d : Data} (h : Inv s) (hx : s.rst = false) :
    Inv (takeResponse (s.load st d)) :=
  h.of_regs rfl rfl (by simp [hx]) (by simp)

theorem Serving.withoutWord (h : Serving s) : Serving { s with cmd := none } :=
  ⟨h.inv.of_regs rfl rfl h.inv.rst_idle h.inv.rsp_data, h.reading, h.allOk⟩

/-- A READ_BIT issued in a Read session that does not fail is a one-bit step, and the port is ready again. -/
theorem Serving.issue_readBit (h : Serving s) (hr : Ready s) :
    ∃ r t, issue (encode .readBit) s = some (bitResponse r, t) ∧ Serves s r t ∧ Serving t ∧ Ready t := by
  obtain ⟨r, u, e, hs, hu⟩ := h.withoutWord.rb
  have hm := (rb_done e).move
  have hx : u.rst = false := hm.rst.trans (ready_iff.1 hr).1
  have he := (exec_readBit h.withoutWord.reading).trans (readBitBody_of_rb e)
  have hserves : Serves s r (takeResponse (u.load (bitResponse r).status (bitResponse r).data)) := by
    cases r <;> exact hs
  exact ⟨r, _, issue_of_exec hr (by decide) he rfl, hserves, ⟨inv_takeResponse hu.inv hx, hu.reading, hu.allOk⟩,
    ready_takeResponse hx⟩

/-- As many READ_BITs as data bits are left answer those bits in order. -/
theorem Serving.issue_readBits {bits : List Bool} (h : Serving s) (hr : Ready s) (hd : dataBits s = bits) :
    ∃ t, issueAll (words (List.replicate bits.length .readBit)) s =
        some (bits.map fun b => bitResponse (.bit b), t) ∧ Serving t ∧ Ready t ∧ dataBits t = [] := by
  induction bits generalizing s with
  | nil => exact ⟨s, rfl, h, hr, hd⟩
  | cons b bits ih =>
    obtain ⟨r, u, e, hs, hu, hru⟩ := h.issue_readBit hr
    cases r with
    | bit c =>
      have hc : dataBits s = c :: dataBits u := hs
      obtain ⟨rfl, hdu⟩ := List.cons.inj (hc.symm.trans hd)
      obtain ⟨t, et, ht⟩ := ih hu hru hdu
      exact ⟨t, issueAll_cons e et, ht⟩
    | eod => simp [hs.1] at hd

/-- With no data bit left a READ_BIT answers EOD (R74, R88). -/
theorem Serving.issue_readBit_eod (h : Serving s) (hr : Ready s) (hd : dataBits s = []) :
    ∃ t, issue (encode .readBit) s = some (⟨.eod, 0⟩, t) := by
  obtain ⟨r, t, e, hs, _⟩ := h.issue_readBit hr
  cases r with
  | bit b =>
    have hb : dataBits s = b :: dataBits t := hs
    simp [hd] at hb
  | eod => exact ⟨t, e⟩

/-- A Read CONSTRUCT opens a session whose data bits are the channel's less the last PAD ones (R65, R66). -/
theorem issue_constructR (pad : BitVec 3) (hr : Ready s) (hl : s.lc = .idle) (ha : AllOk s) :
    ∃ t, issue (encode (.constructR pad)) s = some (⟨.ok, 0⟩, t) ∧ Serving t ∧ Ready t ∧
      dataBits t = (streamBits s.chIn).take (8 * s.chIn.length - pad.toNat) := by
  have hx := (ready_iff.1 hr).1
  have e := exec_constructR (s := { s with cmd := none }) pad hl
  refine ⟨_, issue_of_exec hr (decode_encode rfl) e rfl, ⟨?_, ⟨rfl, rfl⟩, ha⟩, ready_takeResponse hx, ?_⟩
  · exact (inv_opened (s := { s with cmd := none }) hx (by simp)).of_regs rfl rfl (by simp [hx]) (by simp)
  · simp [dataBits, lowBits, streamBits_length]

end Sys2Proof.Machine
end

section

open Sys2Proof Sys2Proof.Machine

/-- Settles O52: a fresh Read session is a queue of the channel's bits less the last PAD ones, and READ_BITs empty
it. -/
theorem padAloneSaysWhereTheDataEnds : Obligations.PadAloneSaysWhereTheDataEnds := by
  unfold Obligations.PadAloneSaysWhereTheDataEnds
  rintro s pad n hr hl ha - rfl
  obtain ⟨a, ea, ha, hra, hd⟩ := issue_constructR pad hr hl ha
  obtain ⟨b, eb, hb, hrb, h0⟩ := ha.issue_readBits hra hd
  obtain ⟨u, eu⟩ := hb.issue_readBit_eod hrb h0
  have hlen : ((streamBits s.chIn).take (8 * s.chIn.length - pad.toNat)).length = 8 * s.chIn.length - pad.toNat := by
    simp [streamBits_length]
  rw [hlen] at eb
  have hrun := issueAll_append (issueAll_cons ea eb) (issueAll_singleton eu)
  exact ⟨u, by simpa [words, bitResponse] using hrun⟩

/-- Settles O24: a refusal by a check, or of an illegal word, loads the response alone. -/
theorem refusedCommandsOnlyAnswer : Obligations.RefusedCommandsOnlyAnswer := by
  unfold Obligations.RefusedCommandsOnlyAnswer
  refine ⟨fun i s st hc => exec_refused hc, fun s w hr hw hd => ?_⟩
  rw [step_eq_runWord hr hw, runWord_none hd]
  rfl

/-- Settles O26: from IDLE no check refuses CONSTRUCT, and a lifecycle check refuses it otherwise. -/
theorem constructOpensASession : Obligations.ConstructOpensASession := by
  unfold Obligations.ConstructOpensASession
  refine ⟨fun s hl => ⟨fun pad => exec_constructR pad hl, exec_constructW hl⟩,
    fun s i hi => ⟨fun hl => ?_, fun hl => ?_⟩, fun pad => decode_encode (i := .constructR pad) rfl,
    decode_encode (i := .constructW) rfl, by decide⟩
  · exact exec_refused (check_failed hl (isClose_of_isConstruct hi))
  · exact exec_refused (check_construct_opened hl hi)

end

section

open Sys2Proof Sys2Proof.Machine

/-- Settles O33: below seven waiting bits the body of WRITE_BIT places its bit and makes no push. -/
theorem writeBitPlacesTheBit : Obligations.WriteBitPlacesTheBit := by
  unfold Obligations.WriteBitPlacesTheBit
  intro s b k hw h6 hk
  rw [exec_writeBit hw (symLegal_bitSym b), symBit_bitSym]
  obtain ⟨j, hj, _, e⟩ | ⟨h7, _⟩ | ⟨_, h7, _⟩ | ⟨_, h7, _⟩ | ⟨h7, _⟩ | ⟨h8, _⟩ := writeBitBody_cases b s
  · obtain rfl : j = k := Fin.ext (hj.trans hk.symm)
    rw [e, placeBit_eq_ofNat]
    rfl
  all_goals omega

end

section
/-! SUPPORT. WRITE_BITSTRING as the run of its characters' WRITE_BITs: where it stops, and what one character does to OUT
and to the session (41_write.md R70, R71). -/

namespace Sys2Proof.Machine

open Sys2Proof

variable {s t u : State} {c : Byte} {cs : List Byte}

/-! ### A refused word (R64, R84) -/

/-- The host's side of a refusal: the response is taken, and the block is as it was. -/
theorem issue_refused {w : Word} {i : Instr} {st : Status} (hr : Ready s) (hd : decode w = some i)
    (hc : check i s = some st) :
    issue w s = some (⟨st, 0⟩, { s with cmd := none, taken := s.taken ++ [⟨st, 0⟩] }) := by
  have e : takeResponse (({ s with cmd := none } : State).load st 0) =
      { s with cmd := none, taken := s.taken ++ [⟨st, 0⟩] } := by
    simp [takeResponse, State.load, (ready_iff.1 hr).2]
  rw [issue_of_exec hr hd (exec_refused (s := { s with cmd := none }) hc) rfl, e]

theorem check_writeBit_reading (h : Reading s) : check (.writeBit c) s = some .errMode := by
  simp [check, lifecycleError, modeError, needsMode, isConstruct, h.1, h.2]

theorem symLegal_eq_false (h0 : c ≠ 0x30) (h1 : c ≠ 0x31) : symLegal c = false :=
  Bool.or_eq_false_iff.2 ⟨beq_false_of_ne h0, beq_false_of_ne h1⟩

/-- No check of WRITE_BIT answers ERR_IO (R85). -/
theorem check_writeBit_ne_errIo : check (.writeBit c) s ≠ some .errIo := by
  simp only [check, lifecycleError, modeError, operandError, needsMode, isConstruct, isClose]
  cases s.lc <;> cases s.mode <;> cases symLegal c <;> simp

/-! ### One character (R68, R87) -/

/-- What an issued WRITE_BIT has done once its response is taken: it answered OK, or its push failed, or it was refused. -/
theorem issue_writeBit_cases {r : Response} (h : issue (encode (.writeBit c)) s = some (r, t)) :
    s.chOut <+: t.chOut ∧
      (r.status = .ok ∨ (r.status = .errIo ∧ t.lc = .failed) ∨
        (r.status ≠ .errIo ∧ regs t = regs s ∧ channels t = channels s)) := by
  obtain ⟨u, hu, hur, rfl⟩ := issue_some h
  rw [runWord_some (decode_encode rfl)] at hu
  obtain ⟨st, hc, rfl⟩ | ⟨-, -, -, hb⟩ := exec_next hu
  · cases hur
    exact ⟨List.prefix_refl _, .inr (.inr ⟨fun e => check_writeBit_ne_errIo (hc.trans (congrArg some e)), rfl, rfl⟩)⟩
  · obtain ⟨_, _, _, e⟩ | ⟨_, _, e⟩ | ⟨m, _, _, e⟩ | ⟨_, _, _, e⟩ | ⟨_, _, e⟩ | ⟨_, e⟩ := writeBitBody_cases _ _ <;>
      rw [e] at hb <;> cases hb <;> cases hur
    · exact ⟨List.prefix_refl _, .inl rfl⟩
    · exact ⟨List.prefix_append _ _, .inl rfl⟩
    · refine ⟨?_, .inr (.inl ⟨rfl, rfl⟩)⟩
      cases m with
      | false => exact List.prefix_refl _
      | true => exact List.prefix_append _ _

/-! ### Where a string stops (R70) -/

/-- From `s` to `u` the characters were issued as WRITE_BITs and all answered OK. -/
def Accepted (cs : List Byte) (s u : State) : Prop :=
  ∃ rs, issueAll (words (cs.map .writeBit)) s = some (rs, u) ∧ ∀ r ∈ rs, r.status = .ok

theorem Accepted.nil : Accepted [] s s := ⟨[], rfl, by simp⟩

theorem Accepted.cons {r : Response} (h : issue (encode (.writeBit c)) s = some (r, u)) (hr : r.status = .ok)
    (h' : Accepted cs u t) : Accepted (c :: cs) s t := by
  obtain ⟨rs, e, hrs⟩ := h'
  exact ⟨r :: rs, issueAll_cons h e, List.forall_mem_cons.2 ⟨hr, hrs⟩⟩

theorem writeBitstring_cons_ok {r : Response} (h : issue (encode (.writeBit c)) s = some (r, u))
    (hr : r.status = .ok) : writeBitstring (c :: cs) s = writeBitstring cs u := by
  simp [writeBitstring, h, hr]

theorem writeBitstring_cons_stop {r : Response} (h : issue (encode (.writeBit c)) s = some (r, t))
    (hr : r.status ≠ .ok) : writeBitstring (c :: cs) s = some (r.status, t) := by
  simp [writeBitstring, h, hr]

/-- A string of which the host saw the outcome: every character answered OK, or those before one that did not. -/
inductive BitstringRun (s : State) : List Byte → Status → State → Prop
  | accepted {cs : List Byte} {t : State} (h : Accepted cs s t) : BitstringRun s cs .ok t
  | stopped {pre post : List Byte} {c : Byte} {u t : State} {r : Response} (ha : Accepted pre s u)
      (h : issue (encode (.writeBit c)) u = some (r, t)) (hr : r.status ≠ .ok) :
      BitstringRun s (pre ++ c :: post) r.status t

theorem BitstringRun.cons {r : Response} {st : Status} (h : issue (encode (.writeBit c)) s = some (r, u))
    (hr : r.status = .ok) (h' : BitstringRun u cs st t) : BitstringRun s (c :: cs) st t := by
  cases h' with
  | accepted ha => exact .accepted (ha.cons h hr)
  | stopped ha hi hn => exact .stopped (ha.cons h hr) hi hn

/-- The outcome of a non-empty string is that of its first character, or of the rest after a first character that answered
OK. -/
theorem writeBitstring_cons_cases {st : Status} (h : writeBitstring (c :: cs) s = some (st, t)) :
    ∃ r u, issue (encode (.writeBit c)) s = some (r, u) ∧
      ((r.status = .ok ∧ writeBitstring cs u = some (st, t)) ∨ (r.status ≠ .ok ∧ r.status = st ∧ u = t)) := by
  obtain ⟨⟨r, u⟩, e, h⟩ := Option.bind_eq_some_iff.1 h
  refine ⟨r, u, e, ?_⟩
  by_cases hr : r.status = .ok
  · exact .inl ⟨hr, by simpa [hr] using h⟩
  · exact .inr ⟨hr, by simpa [hr] using h⟩

theorem bitstringRun {st : Status} (h : writeBitstring cs s = some (st, t)) : BitstringRun s cs st t := by
  induction cs generalizing s with
  | nil =>
    cases h
    exact .accepted .nil
  | cons c cs ih =>
    obtain ⟨r, u, e, ⟨hr, h⟩ | ⟨hr, rfl, rfl⟩⟩ := writeBitstring_cons_cases h
    · exact (ih h).cons e hr
    · exact .stopped .nil e hr

/-- OUT only grows under a string, whatever its outcome (R71). -/
theorem writeBitstring_chOut {st : Status} (h : writeBitstring cs s = some (st, t)) : s.chOut <+: t.chOut := by
  induction cs generalizing s with
  | nil =>
    cases h
    exact List.prefix_refl _
  | cons c cs ih =>
    obtain ⟨r, u, e, ⟨_, h⟩ | ⟨_, _, rfl⟩⟩ := writeBitstring_cons_cases h
    · exact (issue_writeBit_cases e).1.trans (ih h)
    · exact (issue_writeBit_cases e).1

/-- A first character that is refused is all there is of the string. -/
theorem writeBitstring_refused {st : Status} (hr : Ready s) (hc : check (.writeBit c) s = some st) :
    writeBitstring (c :: cs) s = some (st, { s with cmd := none, taken := s.taken ++ [⟨st, 0⟩] }) := by
  have hn : st ≠ .ok := fun e => check_ne_ok _ s (hc.trans (congrArg some e))
  exact writeBitstring_cons_stop (issue_refused hr (decode_encode rfl) hc) hn

/-! ### Bits into an open Write session (R68) -/

/-- An open Write session that takes bits, whatever the accumulator holds: the port is ready, BOFF is in its range and no
push fails. -/
structure TakesBits (s : State) : Prop where
  ready : Ready s
  writing : Writing s
  count : CountOk s
  allOk : AllOk s

theorem TakesBits.exec_writeBit (h : TakesBits s) (b : Bool) :
    ∃ t, exec (.writeBit (bitSym b)) s = .next t ∧ t.rsp = some ⟨.ok, 0⟩ ∧ TakesBits (takeResponse t) := by
  have hx := (ready_iff.1 h.ready).1
  have h7 := h.count
  obtain h6 | h7 : s.boff.val ≤ 6 ∨ s.boff.val = 7 := by omega
  · exact ⟨_, writeBitPlacesTheBit s b ⟨s.boff.val + 1, by omega⟩ h.writing h6 rfl, rfl,
      ready_takeResponse hx, h.writing, Nat.succ_le_succ h6, h.allOk⟩
  · exact ⟨_, writeBitFlushesTheEighthBit s b _ h.writing h7 (answer_ok_of_allOk h.allOk) rfl, rfl,
      ready_takeResponse hx, h.writing, by simp, allOk_of_suffix h.allOk (List.tail_suffix _)⟩

theorem TakesBits.issue_writeBit (h : TakesBits s) (b : Bool) :
    ∃ t, issue (encode (.writeBit (bitSym b))) s = some (⟨.ok, 0⟩, t) ∧ TakesBits t := by
  have hc : TakesBits { s with cmd := none } := ⟨h.ready, h.writing, h.count, h.allOk⟩
  obtain ⟨t, e, hr, ht⟩ := hc.exec_writeBit b
  exact ⟨_, issue_of_exec h.ready (decode_encode rfl) e hr, ht⟩

/-- The bit characters at the head of a string are written, and the string goes on where they leave off. -/
theorem TakesBits.writeBitstring_append (h : TakesBits s) (bits : List Bool) (cs : List Byte) :
    ∃ rs u, issueAll (words (writeBits bits)) s = some (rs, u) ∧ TakesBits u ∧
      writeBitstring (bits.map bitSym ++ cs) s = writeBitstring cs u := by
  induction bits generalizing s with
  | nil => exact ⟨[], s, rfl, h, rfl⟩
  | cons b bits ih =>
    obtain ⟨v, e, hv⟩ := h.issue_writeBit b
    obtain ⟨rs, u, eu, hu, hs⟩ := ih hv
    exact ⟨_, u, issueAll_cons e eu, hu, (writeBitstring_cons_ok e rfl).trans hs⟩

end Sys2Proof.Machine
end

section

open Sys2Proof Sys2Proof.Machine

/-- Settles O38: a string runs up to its first character that does not answer OK, and the refused characters are the ones
that the checks of WRITE_BIT name. -/
theorem bitstringIsItsWriteBits : Obligations.BitstringIsItsWriteBits := by
  unfold Obligations.BitstringIsItsWriteBits
  refine ⟨fun s => rfl, fun cs s t st h => ?_, fun s bits c post hr hw hk ha h0 h1 => ?_, fun s c cs hr hs => ?_⟩
  · cases bitstringRun h with
    | accepted ha => exact ⟨fun _ => ha, fun hn => absurd rfl hn⟩
    | stopped ha hi hn =>
      obtain ⟨rs, e, hrs⟩ := ha
      exact ⟨fun hok => absurd hok hn, fun _ => ⟨_, _, _, rs, _, _, rfl, e, hrs, hi, rfl⟩⟩
  · have hs : TakesBits s := ⟨hr, hw, hk, ha⟩
    obtain ⟨rs, u, e, hu, happ⟩ := hs.writeBitstring_append bits (c :: post)
    have hbad : symLegal c = false := symLegal_eq_false h0 h1
    exact ⟨rs, u, e, happ.trans (writeBitstring_refused hu.ready (check_writeBit_badSym hu.writing hbad))⟩
  · exact writeBitstring_refused hr (check_writeBit_reading hs)

/-- Settles O39: OUT only grows under each character, and the one that does not answer OK was refused or its push
failed. -/
theorem bitstringUndoesNothing : Obligations.BitstringUndoesNothing := by
  unfold Obligations.BitstringUndoesNothing
  intro cs s t st h
  refine ⟨writeBitstring_chOut h, fun hn => ?_⟩
  cases bitstringRun h with
  | accepted _ => exact absurd rfl hn
  | stopped ha hi _ =>
    obtain ⟨rs, e, hrs⟩ := ha
    obtain ⟨hout, hok | ⟨hio, hf⟩ | ⟨hio, hregs, hch⟩⟩ := issue_writeBit_cases hi
    · exact absurd hok hn
    · exact ⟨_, _, _, rs, _, _, rfl, e, hrs, hi, rfl, hout, fun _ => hf, fun hne => absurd hio hne⟩
    · exact ⟨_, _, _, rs, _, _, rfl, e, hrs, hi, rfl, hout, fun he => absurd he hio, fun _ => ⟨hregs, hch⟩⟩

end

section
/-! SUPPORT. One bit of a byte cleared, and READ_BYTE where both accesses succeed (42_read.md R72, R76). -/

namespace Sys2Proof.Machine

open Sys2Proof

variable {s : State}

theorem one_shiftLeft_eq_ofNat (k : Nat) : 0x01#8 <<< k = BitVec.ofNat 8 (2 ^ k) :=
  BitVec.eq_of_toNat_eq (by simp [Nat.one_shiftLeft])

/-- Clearing bit `k` leaves the others. -/
theorem getLsbD_clear (b : Byte) {k j : Nat} (hk : k < 8) (hj : j < 8) :
    (b &&& ~~~(0x01#8 <<< k)).getLsbD j = (b.getLsbD j && decide (j ≠ k)) := by
  rw [← BitVec.twoPow_eq, BitVec.getLsbD_and, BitVec.getLsbD_not, BitVec.getLsbD_twoPow]
  simp [hk, hj, eq_comm]

/-- With a byte in the channel READ_BYTE pops it, probes and answers it (R76). -/
theorem readByteBody_ok_cons {b : Byte} {bs : List Byte} (hl : s.last = false) (ha : s.answer = .ok)
    (hc : s.chIn = b :: bs) (hq : s.chan.tail.headD .ok = .ok) :
    readByteBody s = .next ((heldProbed b bs s).load .ok (byteData b)) := by
  have hprobe : chProbe (held b bs s) = .done (if bs = [] then .empty else .more) ((held b bs s).access .probe) :=
    chProbe_ok ((answer_held b bs s).trans hq)
  rw [readByteBody, if_neg (by simp [hl]), chPop_ok_cons ha hc, finish_done]
  rw [held] at hprobe
  simp only [hprobe, finish_done]
  cases bs <;> rfl

theorem rb_atEnd (he : atEnd s = true) : rb s = .done .eod s := if_pos he

theorem exec_readBit_atEnd (hr : Reading s) (he : atEnd s = true) : exec .readBit s = .next (s.load .eod 0) :=
  (exec_readBit hr).trans (readBitBody_of_rb (rb_atEnd he))

theorem exec_readByte_last (hr : Reading s) (hl : s.last = true) : exec .readByte s = .next (s.load .eod 0) :=
  (exec_readByte hr).trans (if_pos hl)

end Sys2Proof.Machine
end

section

open Sys2Proof Sys2Proof.Machine

/-- Settles O40: the mask clears the one bit, and the count goes down. -/
theorem extractTakesTheTopUnreadBit : Obligations.ExtractTakesTheTopUnreadBit := by
  unfold Obligations.ExtractTakesTheTopUnreadBit
  intro s hb
  have hk := s.boff.isLt
  exact ⟨rfl, fun j hj => getLsbD_clear s.acc (by omega) hj, rfl, rfl⟩

/-- Settles O42: with an unread bit and no end the one-bit step only takes the bit. -/
theorem readBitTakesABufferedBit : Obligations.ReadBitTakesABufferedBit := by
  unfold Obligations.ReadBitTakesABufferedBit
  intro s k hr he hk
  obtain ⟨he', _⟩ | ⟨_, _, e⟩ | ⟨_, hb, _⟩ := rb_cases s
  · simp [he] at he'
  · have hdown : boffDown s.boff = k := Fin.ext (by simp [hk])
    rw [exec_readBit hr, readBitBody_of_rb e, ← one_shiftLeft_eq_ofNat, ← hdown]
    rfl
  · omega

/-- Settles O44: the end test and LAST answer at once; an empty channel answers the pop with the end of the data. -/
theorem endOfDataIsANormalAnswer : Obligations.EndOfDataIsANormalAnswer := by
  unfold Obligations.EndOfDataIsANormalAnswer
  refine fun s hr => ⟨exec_readBit_atEnd hr, exec_readByte_last hr, ?_⟩
  rintro i (⟨rfl, hb⟩ | rfl) hl hc ha
  · have e : rb s = .done .eod ((s.access .pop).setLast true) := by
      rw [rb_eq_refill hl hb, refill, chPop_ok_nil ha hc, bind_done]
    rw [exec_readBit hr, readBitBody_of_rb e]
    rfl
  · rw [exec_readByte hr, readByteBody, if_neg (by simp [hl]), chPop_ok_nil ha hc]
    rfl

/-- Settles O47: the pop gives the byte, and the probe of what is left gives LAST. -/
theorem readByteReturnsTheNextByte : Obligations.ReadByteReturnsTheNextByte := by
  unfold Obligations.ReadByteReturnsTheNextByte
  intro s b bs hr hl hc ha hq
  rw [exec_readByte hr, readByteBody_ok_cons hl ha hc hq, BitVec.ofNat_toNat, List.append_cons s.accesses,
    List.append_cons s.shown]
  rfl

end

section
/-! SUPPORT. Reading does not look at the command port: whatever word, response and record of responses stand there, the
one-bit step and the READ_NBITS loop do the same (30_encoding.md R50, R52, 42_read.md R74, R78). -/

namespace Sys2Proof.Machine

open Sys2Proof

variable {s t u : State}

/-- `s` with the command port of `p`: the waiting word, the held response and the responses the host has taken. -/
def atPort (p s : State) : State := { s with cmd := p.cmd, rsp := p.rsp, taken := p.taken }

/-- A result whose state has the command port of `p`. -/
def Result.atPort {α : Type} (p : State) (r : Result α) : Result α :=
  match r with
  | .done a s => .done a (Machine.atPort p s)
  | .failed s => .failed (Machine.atPort p s)
  | .abandoned s => .abandoned (Machine.atPort p s)
  | .silent => .silent

theorem answer_atPort (p s : State) : (atPort p s).answer = s.answer := rfl

theorem ReadMove.atPort_eq (h : ReadMove s t) : atPort s t = t := by
  rw [atPort, ← h.cmd, ← h.rsp, ← h.taken]

theorem Result.atPort_atPort {α : Type} (p q : State) (r : Result α) : (r.atPort q).atPort p = r.atPort p := by
  cases r <;> rfl

theorem bind_atPort {α β : Type} {k : α → State → Result β} (p : State) (r : Result α)
    (hk : ∀ a s, k a (atPort p s) = (k a s).atPort p) : (r.atPort p).bind k = (r.bind k).atPort p := by
  cases r with
  | done a s => exact hk a s
  | failed s => rfl
  | abandoned s => rfl
  | silent => rfl

theorem chPop_atPort (p s : State) : chPop (atPort p s) = (chPop s).atPort p := by
  rw [chPop, chPop, answer_atPort]
  cases s.answer with
  | ok =>
    have hc : (atPort p s).chIn = s.chIn := rfl
    simp only [hc]
    cases s.chIn <;> rfl
  | err m => cases m <;> rfl
  | rst e => cases h : e.moved <;> simp only [h] <;> rfl
  | never => rfl

theorem chProbe_atPort (p s : State) : chProbe (atPort p s) = (chProbe s).atPort p := by
  rw [chProbe, chProbe, answer_atPort]
  cases s.answer <;> rfl

theorem probeLoaded_atPort (p s : State) : probeLoaded (atPort p s) = (probeLoaded s).atPort p := by
  rw [probeLoaded, chProbe_atPort]
  refine bind_atPort p _ fun q u => ?_
  have he : atEnd ((atPort p u).setLast (lastOfProbe q)) = atEnd (u.setLast (lastOfProbe q)) := rfl
  rw [he]
  split <;> rfl

theorem refill_atPort (p s : State) : refill (atPort p s) = (refill s).atPort p := by
  rw [refill, chPop_atPort]
  refine bind_atPort p _ fun x u => ?_
  cases x with
  | eos => rfl
  | byte b => exact probeLoaded_atPort p (loadAcc b u)

theorem rb_atPort (p s : State) : rb (atPort p s) = (rb s).atPort p := by
  have he : atEnd (atPort p s) = atEnd s := rfl
  have hb : (atPort p s).boff = s.boff := rfl
  rw [rb, rb, he, hb, refill_atPort]
  split
  · rfl
  · split <;> rfl

theorem gather_atPort (n : Nat) (v : Data) (p s : State) : gather n v (atPort p s) = (gather n v s).atPort p := by
  induction n generalizing v s with
  | zero => rfl
  | succ n ih =>
    rw [gather, rb_atPort]
    refine bind_atPort p _ fun r t => ?_
    cases r with
    | bit b => exact ih (appendBit v b) t
    | eod => rfl

/-! ### READ_BIT as the host sees it (R74, R87) -/

/-- A READ_BIT that the host issues is a one-bit step that is done, or one whose access fails; the state it leaves is the
step's but for the command port. -/
theorem issue_readBit_cases {r : Response} (hr : Reading s) (h : issue (encode .readBit) s = some (r, u)) :
    (∃ x t, rb s = .done x t ∧ r = bitResponse x ∧ u = atPort u t) ∨
      ∃ t, rb s = .failed t ∧ r = ⟨.errIo, 0⟩ ∧ u = atPort u (failedRegs t) := by
  obtain ⟨v, hv, hvr, rfl⟩ := issue_some h
  have e : rb s = (rb { s with cmd := none }).atPort s := rb_atPort s { s with cmd := none }
  rw [runWord_some (decode_encode rfl), exec_readBit (s := { s with cmd := none }) hr, readBitBody] at hv
  obtain ⟨x, t, ht, hk⟩ | ⟨t, ht, rfl⟩ | ⟨t, _, rfl⟩ := finish_next hv
  · have hb := readBitBody_of_rb ht
    rw [readBitBody, hv] at hb
    cases hb
    cases hvr
    exact .inl ⟨x, atPort s t, by rw [e, ht]; rfl, rfl, rfl⟩
  · cases hvr
    exact .inr ⟨atPort s t, by rw [e, ht]; rfl, rfl, rfl⟩
  · cases hvr

/-- A one-bit step that is done answers the host's READ_BIT, and the port is ready for the next. -/
theorem issue_readBit_of_rb {x : BitRead} (hs : Ready s) (hr : Reading s) (h : rb s = .done x t) :
    ∃ u, issue (encode .readBit) s = some (bitResponse x, u) ∧ u = atPort u t ∧ Ready u := by
  have e : rb { s with cmd := none } = .done x (atPort { s with cmd := none } t) :=
    (rb_atPort { s with cmd := none } s).trans (by rw [h]; rfl)
  have he := (exec_readBit (s := { s with cmd := none }) hr).trans (readBitBody_of_rb e)
  have hx : t.rst = false := (rb_done h).move.rst.trans (ready_iff.1 hs).1
  exact ⟨_, issue_of_exec hs (decode_encode rfl) he rfl, rfl, ready_takeResponse hx⟩

/-! ### The loop against READ_BITs (R79) -/

/-- The loop goes on alike after a one-bit step and after the READ_BIT the host issued for it. -/
theorem gather_readOn {n : Nat} {v : Data} {x : BitRead} (h : rb s = .done x t) (hu : u = atPort u t) :
    gather n v t = (gather n v u).atPort s := by
  rw [← gather_atPort]
  have ht : atPort s u = t := by
    rw [hu]
    exact (rb_done h).move.atPort_eq
  rw [ht]

/-- What the loop gathers, as many READ_BITs answer bit by bit. -/
theorem issue_readBits_of_gather {n : Nat} {v w : Data} (hs : Ready s) (hr : Reading s)
    (h : gather n v s = .done (some w) t) :
    ∃ (bits : List Bool) (u : State), bits.length = n ∧ w = bits.foldl appendBit v ∧ u = atPort u t ∧
      issueAll (words (List.replicate n .readBit)) s = some (bits.map fun b => bitResponse (.bit b), u) := by
  induction n generalizing v s t with
  | zero =>
    cases h
    exact ⟨[], s, rfl, rfl, rfl, rfl⟩
  | succ n ih =>
    obtain ⟨x, m, hm, hg⟩ := bind_eq_done h
    obtain ⟨m', hi, hm', hs'⟩ := issue_readBit_of_rb hs hr hm
    cases x with
    | bit b =>
      have hr' : Reading m' := by
        rw [hm']
        exact (rb_done hm).move.reading hr
      have hg' : gather n (appendBit v b) m' = .done (some w) (atPort m' t) := by
        rw [hm', gather_atPort]
        exact congrArg (Result.atPort m') hg
      obtain ⟨bits, u, hlen, hw, hu, hall⟩ := ih hs' hr' hg'
      exact ⟨b :: bits, u, by simp [hlen], hw, hu, issueAll_cons hi hall⟩
    | eod => cases hg

/-- After READ_BITs that all answered OK the loop has as many bits, and goes on from where they left off. -/
theorem gather_of_issue_readBits {k : Nat} {rs : List Response} (m : Nat) (v : Data) (hr : Reading s)
    (h : issueAll (words (List.replicate k .readBit)) s = some (rs, u)) (hok : ∀ r ∈ rs, r.status = .ok) :
    Reading u ∧ ∃ v', gather (m + k) v s = (gather m v' u).atPort s := by
  induction k generalizing v s rs with
  | zero =>
    cases h
    exact ⟨hr, v, gather_atPort m v u u⟩
  | succ k ih =>
    obtain ⟨⟨r, a⟩, hi, h⟩ := Option.bind_eq_some_iff.1 h
    obtain ⟨⟨rs', u'⟩, hrest, h⟩ := Option.map_eq_some_iff.1 h
    cases h
    obtain ⟨hrok, hrest'⟩ := List.forall_mem_cons.1 hok
    obtain ⟨x, t, ht, rfl, ha⟩ | ⟨t, _, rfl, _⟩ := issue_readBit_cases hr hi
    · cases x with
      | bit b =>
        have hra : Reading a := by
          rw [ha]
          exact (rb_done ht).move.reading hr
        obtain ⟨hru, v', hg⟩ := ih (appendBit v b) hra hrest hrest'
        refine ⟨hru, v', ?_⟩
        have e : gather (m + (k + 1)) v s = gather (m + k) (appendBit v b) t := by
          simp [gather, ht]
        rw [e, gather_readOn ht ha, hg, Result.atPort_atPort]
      | eod => cases hrok
    · cases hrok

end Sys2Proof.Machine
end

section

open Sys2Proof Sys2Proof.Machine

/-- Settles O50: the loop and the READ_BITs take the same one-bit steps. -/
theorem readNbitsIsRepeatedReadBit : Obligations.ReadNbitsIsRepeatedReadBit := by
  unfold Obligations.ReadNbitsIsRepeatedReadBit
  intro s n hs hr hn
  rw [exec_readNbits hr hn, readNbitsBody]
  refine ⟨fun t v h hv => ?_, fun k rs u w st hk h hok hi hst => ?_⟩
  · obtain ⟨o, a, hg, ht⟩ := finish_ok h hv
    cases o with
    | none =>
      cases ht
      cases hv
    | some d =>
      cases ht
      cases hv
      obtain ⟨bits, u, hlen, hd, hu, hall⟩ := issue_readBits_of_gather hs hr hg
      have hval : v.toNat = bitsValue bits := by
        rw [hd]
        exact foldl_appendBit_toNat (k := 0) bits 0 (by decide) (by omega)
      have hlt := gather_toNat_lt (k := 0) (by decide) (by omega) hg
      rw [Nat.zero_add] at hlt
      refine ⟨bits, u, hlen, hall, hval, hlt, ?_⟩
      rw [hu]
      exact ⟨rfl, rfl, rfl⟩
  · obtain ⟨m, rfl⟩ : ∃ m, n = m + 1 + k := ⟨n - (k + 1), by omega⟩
    obtain ⟨hru, v', e⟩ := gather_of_issue_readBits (m + 1) 0 hr h hok
    obtain ⟨x, t, ht, hx, hw⟩ | ⟨t, ht, hx, hw⟩ := issue_readBit_cases hru hi
    · cases x with
      | bit b =>
        obtain rfl : st = .ok := congrArg Response.status hx
        simp at hst
      | eod =>
        cases hx
        rw [e, gather, ht, hw]
        exact ⟨_, rfl, rfl, fun _ => rfl, rfl, rfl, rfl, rfl, rfl⟩
    · cases hx
      rw [e, gather, ht, hw]
      exact ⟨_, rfl, rfl, by simp, rfl, rfl, rfl, rfl, rfl⟩

end

section
/-! SUPPORT. A Read session at the end of its data: every command but CLOSE only answers (42_read.md R73, R75). -/

namespace Sys2Proof.Machine

open Sys2Proof

variable {i : Instr} {s t u : State}

/-- An open Read session at the end of its data (R73). -/
structure DataEnded (s : State) : Prop where
  reading : Reading s
  atEnd : atEnd s = true

theorem check_readBit_ne_eod : check .readBit s ≠ some .eod := by
  simp only [check, lifecycleError, modeError, operandError, needsMode, isConstruct, isClose]
  cases s.lc <;> cases s.mode <;> simp

/-- A one-bit step that finds the end of the data leaves the session there (R74). -/
theorem BitStep.dataEnded (hs : BitStep s .eod t) (hr : Reading s) : DataEnded t := by
  refine ⟨hs.move.reading hr, ?_⟩
  cases hs with
  | atEnd he => exact he
  | empty _ hb _ => exact atEnd_iff.2 ⟨rfl, by simp [hb]⟩

theorem dataEnded_of_readBit_eod {d : Data} (h : exec .readBit s = .next t) (ht : t.rsp = some ⟨.eod, d⟩) :
    DataEnded t ∧ t.rst = s.rst := by
  obtain ⟨st, hc, rfl⟩ | ⟨_, hr, hb⟩ := exec_next h
  · cases ht
    exact absurd hc check_readBit_ne_eod
  · obtain ⟨r, a, e, hk⟩ | ⟨a, _, rfl⟩ | ⟨a, _, rfl⟩ := finish_next hb
    · cases r with
      | bit b =>
        cases hk
        cases ht
      | eod =>
        cases hk
        have hs := rb_done e
        have hd := hs.dataEnded hr
        exact ⟨⟨hd.reading, hd.atEnd⟩, hs.move.rst⟩
    · cases ht
    · cases ht

theorem gather_atEnd (n : Nat) (v : Data) (he : atEnd s = true) : gather (n + 1) v s = .done none s := by
  rw [gather, rb_atEnd he, bind_done]

/-- At the end of the data a command other than CLOSE changes nothing, and answers EOD where it asks for data (R75). -/
theorem DataEnded.exec (h : DataEnded s) (hi : i ≠ .close) :
    ∃ r : Response, exec i s = .next (s.load r.status r.data) ∧ (asksForData i = true → r = ⟨.eod, 0⟩) := by
  have hr := h.reading
  cases i with
  | constructR pad => exact ⟨⟨.errAlreadyOpen, 0⟩, exec_refused (check_construct_opened hr.1 rfl), nofun⟩
  | constructW => exact ⟨⟨.errAlreadyOpen, 0⟩, exec_refused (check_construct_opened hr.1 rfl), nofun⟩
  | writeBit sym => exact ⟨⟨.errMode, 0⟩, exec_refused (check_writeBit_reading hr), nofun⟩
  | readBit => exact ⟨⟨.eod, 0⟩, exec_readBit_atEnd hr h.atEnd, fun _ => rfl⟩
  | readByte => exact ⟨⟨.eod, 0⟩, exec_readByte_last hr (atEnd_iff.1 h.atEnd).1, fun _ => rfl⟩
  | readNbits n =>
    obtain hn | hn := Nat.lt_or_ge 64 n
    · have hl : nbitsLegal n = false := decide_eq_false (Nat.not_le.2 hn)
      exact ⟨⟨.errNbits, 0⟩, exec_refused (check_readNbits_tooMany hr hn), by simp [asksForData, hl]⟩
    · have e := exec_readNbits hr hn
      cases n with
      | zero => exact ⟨⟨.ok, 0⟩, e, nofun⟩
      | succ n =>
        rw [readNbitsBody, gather_atEnd n 0 h.atEnd] at e
        exact ⟨⟨.eod, 0⟩, e, fun _ => rfl⟩
  | close => exact absurd rfl hi

/-- The host issues a command that only answers: the port is ready again, and the rest is as it was. -/
theorem issue_of_load {r : Response} (hs : Ready s) (hw : i.wf = true)
    (h : exec i { s with cmd := none } = .next (({ s with cmd := none } : State).load r.status r.data)) :
    ∃ u, issue (encode i) s = some (r, u) ∧ u = atPort u s ∧ Ready u :=
  ⟨_, issue_of_exec hs (decode_encode hw) h rfl, rfl, ready_takeResponse (ready_iff.1 hs).1⟩

/-- Commands other than CLOSE, issued one after the other at the end of the data, all find it there (R75). -/
theorem DataEnded.issueAll (h : DataEnded s) (hs : Ready s) (is : List Instr)
    (his : ∀ i ∈ is, i.wf = true ∧ i ≠ .close) :
    ∃ (rs : List Response) (u : State), issueAll (words is) s = some (rs, u) ∧ rs.length = is.length ∧
      u = atPort u s ∧ ∀ p ∈ is.zip rs, asksForData p.1 = true → p.2 = ⟨.eod, 0⟩ := by
  induction is generalizing s with
  | nil => exact ⟨[], s, rfl, rfl, rfl, nofun⟩
  | cons i is ih =>
    obtain ⟨⟨hw, hi⟩, his⟩ := List.forall_mem_cons.1 his
    obtain ⟨r, e, hr⟩ := DataEnded.exec (s := { s with cmd := none }) ⟨h.reading, h.atEnd⟩ hi
    obtain ⟨a, ea, ha, hsa⟩ := issue_of_load hs hw e
    have hda : DataEnded a := by
      rw [ha]
      exact ⟨h.reading, h.atEnd⟩
    obtain ⟨rs, u, eu, hlen, hu, hall⟩ := ih hda hsa his
    refine ⟨r :: rs, u, issueAll_cons ea eu, by simp [hlen], ?_, ?_⟩
    · rw [ha] at hu
      exact hu
    · exact List.forall_mem_cons.2 ⟨hr, hall⟩

end Sys2Proof.Machine
end

section

open Sys2Proof Sys2Proof.Machine

/-- Settles O46: READ_BIT answers EOD only where the data has ended, and no command but CLOSE leaves that state. -/
theorem endOfDataIsStable : Obligations.EndOfDataIsStable := by
  unfold Obligations.EndOfDataIsStable
  intro s t d is hx h ht his
  obtain ⟨hd, hrst⟩ := dataEnded_of_readBit_eod h ht
  have hd' : DataEnded (takeResponse t) := ⟨hd.reading, hd.atEnd⟩
  obtain ⟨rs, u, e, hlen, hu, hall⟩ := hd'.issueAll (ready_takeResponse (hrst.trans hx)) is his
  refine ⟨rs, u, e, hlen, ?_, ?_, ?_, hall⟩ <;> rw [hu] <;> rfl

end

section
/-! SUPPORT. The accesses of a Read session byte by byte, and what its commands answer once no data bit is left;
CLOSE without a flush (42_read.md R74, R75, 43_close.md R80, R82, R116). -/

namespace Sys2Proof.Machine

open Sys2Proof

variable {i : Instr} {s t u : State}

/-! ### One pop and one probe per byte (R74) -/

/-- The accesses on record, then one pop and one probe for each byte the read channel still holds. -/
def accessesDue (s : State) : List Access :=
  s.accesses ++ (List.replicate s.chIn.length [Access.pop, Access.probe]).flatten

/-- LAST says so where the read channel holds no byte. -/
abbrev LastSeen (s : State) : Prop := s.chIn = [] → s.last = true

theorem accessesDue_of_empty (h : s.chIn = []) : accessesDue s = s.accesses := by simp [accessesDue, h]

theorem BitStep.accessesDue_eq {b : Bool} (h : BitStep s (.bit b) t) : accessesDue t = accessesDue s := by
  cases h with
  | buffered _ _ => rfl
  | refill _ _ hi => simp [accessesDue, refilled, popped, hi, List.replicate_succ]

theorem BitStep.lastSeen {b : Bool} (h : BitStep s (.bit b) t) (hs : LastSeen s) : LastSeen t := by
  cases h with
  | buffered _ _ => exact hs
  | refill _ _ _ => simp [LastSeen]

/-- READ_BITs the host issues that all answer a bit make one pop and one probe for each byte they take. -/
theorem accessesDue_of_issue_readBits {bits : List Bool} (hr : Reading s)
    (h : issueAll (words (List.replicate bits.length .readBit)) s =
      some (bits.map fun b => bitResponse (.bit b), u)) :
    accessesDue u = accessesDue s ∧ (LastSeen s → LastSeen u) := by
  induction bits generalizing s with
  | nil =>
    cases h
    exact ⟨rfl, id⟩
  | cons b bits ih =>
    obtain ⟨⟨r, a⟩, hi, h⟩ := Option.bind_eq_some_iff.1 h
    obtain ⟨⟨rs, a'⟩, hrest, h⟩ := Option.map_eq_some_iff.1 h
    cases h
    obtain ⟨x, t, ht, hx, ha⟩ | ⟨t, _, hx, _⟩ := issue_readBit_cases hr hi
    · cases x with
      | bit c =>
        have hs := rb_done ht
        have hra : Reading a := by
          rw [ha]
          exact hs.move.reading hr
        obtain ⟨hdue, hlast⟩ := ih hra hrest
        rw [ha] at hdue hlast
        exact ⟨hdue.trans hs.accessesDue_eq, fun hl => hlast (hs.lastSeen hl)⟩
      | eod => cases hx
    · cases hx

/-! ### No data bit left (R75) -/

theorem asksForData_readNbits {n : Nat} : asksForData (.readNbits n) = true ↔ 1 ≤ n ∧ n ≤ 64 := by
  rw [asksForData, nbitsLegal, Bool.and_eq_true, decide_eq_true_iff, decide_eq_true_iff]
  rfl

/-- The commands that ask for data have a word, and CLOSE is none of them. -/
theorem wf_of_asksForData (h : asksForData i = true) : i.wf = true ∧ i ≠ .close := by
  cases i with
  | readNbits n =>
    have hn := asksForData_readNbits.1 h
    exact ⟨decide_eq_true (by omega), nofun⟩
  | readBit => exact ⟨rfl, nofun⟩
  | readByte => exact ⟨rfl, nofun⟩
  | _ => cases h

/-- Without a data bit left the channel is empty: the filler bits are fewer than a byte's. -/
theorem chIn_of_dataBits_nil (h : dataBits s = []) : s.chIn = [] := by
  have hp := s.pad.isLt
  have hlen := congrArg List.length h
  rw [dataBits_eq, List.length_take, heldBits_length, List.length_nil] at hlen
  exact List.eq_nil_of_length_eq_zero (by omega)

/-- On an empty channel that LAST does not show yet, a command that asks for data finds the end by one pop (R74, R76,
R78). -/
theorem exec_asksForData_empty (hr : Reading s) (hl : s.last = false) (hb : s.boff = 0) (hc : s.chIn = [])
    (ha : s.answer = .ok) (hi : asksForData i = true) :
    exec i s = .next (((s.access .pop).setLast true).load .eod 0) := by
  have hpop := (endOfDataIsANormalAnswer s hr).2.2
  cases i with
  | readBit => exact hpop .readBit (.inl ⟨rfl, hb⟩) hl hc ha
  | readByte => exact hpop .readByte (.inr rfl) hl hc ha
  | readNbits n =>
    obtain ⟨h1, h64⟩ := asksForData_readNbits.1 hi
    obtain ⟨m, rfl⟩ := Nat.exists_eq_add_of_le' h1
    have e : rb s = .done .eod ((s.access .pop).setLast true) := by
      rw [rb_eq_refill hl (by simp [hb]), refill, chPop_ok_nil ha hc, bind_done]
    rw [exec_readNbits hr h64, readNbitsBody, gather, e]
    rfl
  | _ => cases hi

/-- At the end of the data, commands that ask for data all answer EOD and make no access (R75). -/
theorem DataEnded.issue_later (h : DataEnded s) (hs : Ready s) (later : List Instr)
    (hi : ∀ i ∈ later, asksForData i = true) :
    ∃ u, Machine.issueAll (words later) s = some (List.replicate later.length ⟨.eod, 0⟩, u) ∧
      u.accesses = s.accesses := by
  obtain ⟨rs, u, e, hlen, hu, hall⟩ := h.issueAll hs later fun i him => wf_of_asksForData (hi i him)
  have hrs : rs = List.replicate later.length ⟨.eod, 0⟩ := by
    refine List.eq_replicate_iff.2 ⟨hlen, fun r hr => ?_⟩
    rw [← List.map_snd_zip hlen.le] at hr
    obtain ⟨p, hp, rfl⟩ := List.mem_map.1 hr
    exact hall p hp (hi p.1 (List.of_mem_zip hp).1)
  exact ⟨u, hrs ▸ e, by rw [hu]; rfl⟩

/-- Without a data bit left, commands that ask for data all answer EOD; the first of them pops once if LAST is not set
yet (R74, R75). -/
theorem Serving.issue_later (h : Serving s) (hs : Ready s) (hd : dataBits s = []) (later : List Instr)
    (hi : ∀ i ∈ later, asksForData i = true) :
    ∃ u, issueAll (words later) s = some (List.replicate later.length ⟨.eod, 0⟩, u) ∧
      (s.last = true → u.accesses = s.accesses) ∧
      (s.last = false → later ≠ [] → u.accesses = s.accesses ++ [.pop]) := by
  cases hl : s.last with
  | true =>
    have hend : DataEnded s := ⟨h.reading, (endTestMeansNoDataBitRemains.2 s h.inv h.reading hl).2 hd⟩
    obtain ⟨u, e, hu⟩ := hend.issue_later hs later hi
    exact ⟨u, e, fun _ => hu, nofun⟩
  | false =>
    cases later with
    | nil => exact ⟨s, rfl, nofun, fun _ hne => absurd rfl hne⟩
    | cons i later =>
      obtain ⟨hi, hlater⟩ := List.forall_mem_cons.1 hi
      have hc := chIn_of_dataBits_nil hd
      have hb : s.boff = 0 := Fin.ext (by_contra fun h0 => h.inv.chIn_ne_nil h.reading h0 hl hc)
      have e := exec_asksForData_empty (s := { s with cmd := none }) h.reading hl hb hc
        (answer_ok_of_allOk h.allOk) hi
      have hend : DataEnded (takeResponse ((({ s with cmd := none }.access .pop).setLast true).load .eod 0)) :=
        ⟨h.reading, atEnd_iff.2 ⟨rfl, by simp [hb]⟩⟩
      obtain ⟨u, eu, hu⟩ := hend.issue_later (ready_takeResponse (ready_iff.1 hs).1) later hlater
      exact ⟨u, issueAll_cons (issue_of_exec hs (decode_encode (wf_of_asksForData hi).1) e rfl) eu, nofun,
        fun _ _ => hu⟩

/-! ### A Read session on the bytes of a Write session (R116) -/

/-- The state of a Read session that the host has just opened (R65). -/
theorem eq_of_issue_constructR {pad : BitVec 3} {r : Response} (hl : s.lc = .idle)
    (h : issue (encode (.constructR pad)) s = some (r, t)) :
    t = takeResponse ((openSession .read pad { s with cmd := none }).load .ok 0) := by
  obtain ⟨u, hu, _, rfl⟩ := issue_some h
  rw [runWord_some (decode_encode rfl), exec_constructR (s := { s with cmd := none }) pad hl] at hu
  cases hu
  rfl

/-- Filler bits as many as PAD says are no data bits. -/
theorem take_streamBits_of_filler {bytes : List Byte} {bits filler : List Bool}
    (h : streamBits bytes = bits ++ filler) :
    (streamBits bytes).take (8 * bytes.length - filler.length) = bits := by
  have hlen := congrArg List.length h
  rw [streamBits_length, List.length_append] at hlen
  rw [h, hlen, Nat.add_sub_cancel, List.take_left]

/-- READ_NBITS that the host issues for as many bits as are left gives them as one number (R78). -/
theorem Serving.issue_readNbits {n : Nat} (h : Serving s) (hs : Ready s) (hn : n ≤ 64)
    (hd : n = (dataBits s).length) :
    ∃ u v, issue (encode (.readNbits n)) s = some (⟨.ok, v⟩, u) ∧ v.toNat = bitsValue (dataBits s) := by
  obtain ⟨inv, hr, ha⟩ := h.withoutWord
  obtain ⟨t, e, _, _, _, hok, _⟩ := readNbitsReturnsTheNextDataBits.2 { s with cmd := none } n inv hr ha hn
  obtain ⟨⟨v, hv, hval⟩, _⟩ := hok hd.le
  have hall : (dataBits { s with cmd := none }).take n = dataBits s := by
    rw [hd]
    exact List.take_length
  exact ⟨_, v, issue_of_exec hs (decode_encode (decide_eq_true (by omega))) e hv, by rw [hval, hall]⟩

/-- READ_BITs for all the data bits of a session just opened, and then commands that ask for more: the answers, and the
accesses made (R74, R75). -/
theorem issue_session_read {bits : List Bool} {pad : BitVec 3} (hr : Ready s) (hl : s.lc = .idle) (ha : AllOk s)
    (hd : (streamBits s.chIn).take (8 * s.chIn.length - pad.toNat) = bits) (later : List Instr)
    (hi : ∀ i ∈ later, asksForData i = true) :
    ∃ u, issueAll (words (.constructR pad :: List.replicate bits.length .readBit ++ later)) s =
        some (⟨.ok, 0⟩ :: bits.map (fun b => ⟨.ok, if b then 1 else 0⟩) ++
          List.replicate later.length ⟨.eod, 0⟩, u) ∧
      (s.chIn ≠ [] → u.accesses = accessesDue s) ∧
      (s.chIn = [] → later ≠ [] → u.accesses = s.accesses ++ [.pop]) := by
  obtain ⟨a, ea, ha, hra, hda⟩ := issue_constructR pad hr hl ha
  obtain ⟨b, eb, hb, hrb, hdb⟩ := ha.issue_readBits hra (hda.trans hd)
  obtain ⟨u, eu, hlast, hpop⟩ := hb.issue_later hrb hdb later hi
  obtain ⟨hdue, hseen⟩ := accessesDue_of_issue_readBits ha.reading eb
  have hopen := eq_of_issue_constructR hl ea
  have hc := chIn_of_dataBits_nil hdb
  have hdue : b.accesses = accessesDue s := by
    rw [← accessesDue_of_empty hc, hdue, hopen]
    rfl
  refine ⟨u, by simpa [words, bitResponse] using issueAll_append (issueAll_cons ea eb) eu, fun hne => ?_,
    fun he hlater => ?_⟩
  · have hsa : LastSeen a := fun h => absurd (by simpa [hopen, openSession] using h) hne
    exact (hlast (hseen hsa hc)).trans hdue
  · have hbits : bits = [] := by simpa [he, streamBits] using hd.symm
    subst hbits
    cases eb
    exact (hpop (by rw [hopen]; rfl) hlater).trans (by rw [hdue, accessesDue_of_empty he])

/-! ### CLOSE without a flush, and IDLE after it (R80, R82) -/

/-- CLOSE of an open session with nothing to flush (R80). -/
theorem closeBody_unflushed (hl : s.lc = .opened) (hb : s.mode = .write → s.boff = 0) :
    closeBody s = .next ((idleRegs s).load .ok 0) := by
  obtain ⟨hf, _⟩ | ⟨_, _, e⟩ | ⟨_, hm, h0, _⟩ := closeBody_cases s
  · cases hl.symm.trans hf
  · exact e
  · exact absurd (congrArg Fin.val (hb hm)) h0

/-- From IDLE only CONSTRUCT passes the lifecycle check (R85). -/
theorem check_idle (hl : s.lc = .idle) (hi : isConstruct i = false) : check i s = some .errNotOpen := by
  simp [check, lifecycleError, hl, hi]

end Sys2Proof.Machine
end

section

open Sys2Proof Sys2Proof.Machine

/-- Settles O54: CLOSE of an open session passes its check, and its body releases without a push. -/
theorem closeWithNothingToFlush : Obligations.CloseWithNothingToFlush := by
  unfold Obligations.CloseWithNothingToFlush
  intro s hl hb
  rw [exec_close (by simp [hl]), closeBody_unflushed hl hb]
  rfl

/-- Settles O58: CLOSE leaves the idle registers, and a CONSTRUCT from IDLE writes every register. -/
theorem closedSessionIsOver : Obligations.ClosedSessionIsOver := by
  unfold Obligations.ClosedSessionIsOver
  refine ⟨fun s t hl h => congrArg Regs.lc (regs_close hl h), fun i s hl hi => exec_refused (check_idle hl hi),
    fun i s u hs hu hi => ?_⟩
  cases i with
  | constructR pad => exact ⟨_, _, exec_constructR pad hs, exec_constructR pad hu, rfl, rfl, rfl⟩
  | constructW => exact ⟨_, _, exec_constructW hs, exec_constructW hu, rfl, rfl, rfl⟩
  | _ => cases hi

/-- Settles O57: the bytes of a Write session are its bits and then as many filler bits as CLOSE answered, so a Read
session with that PAD has those bits for its data. -/
theorem writtenBitsReadBack : Obligations.WrittenBitsReadBack := by
  unfold Obligations.WrittenBitsReadBack
  intro s bits hr hl ha
  obtain ⟨t, bytes, e, hout, hlen, hstream, _⟩ := writeSessionPaddingLaw s bits hr hl ha
  obtain ⟨p, hp⟩ : ∃ p : BitVec 3, p.toNat = (8 - bits.length % 8) % 8 :=
    ⟨BitVec.ofNat 3 _, Nat.mod_eq_of_lt (Nat.mod_lt _ (by decide))⟩
  rw [← hp] at e hstream
  refine ⟨t, bytes, p, e, hout, ?_⟩
  rintro r hr hl ha rfl
  have hd : (streamBits r.chIn).take (8 * r.chIn.length - p.toNat) = bits := by
    simpa using take_streamBits_of_filler hstream
  have hempty : r.chIn = [] ↔ bits = [] := by
    rw [← List.length_eq_zero_iff, ← List.length_eq_zero_iff]
    omega
  refine ⟨fun later hi => ?_, fun h64 => ?_⟩
  · obtain ⟨u, eu, hne, he⟩ := issue_session_read hr hl ha hd later hi
    exact ⟨u, eu, fun h => hne fun h0 => h (hempty.1 h0), fun h => he (hempty.2 h)⟩
  · obtain ⟨a, ea, ha, hra, hda⟩ := issue_constructR p hr hl ha
    rw [hd] at hda
    obtain ⟨u, v, eu, hv⟩ := ha.issue_readNbits hra h64 (by rw [hda])
    exact ⟨u, v, issueAll_cons ea (issueAll_singleton eu), by rw [hv, hda]⟩

end

section
/-! SUPPORT. The chain of the checks, one case per link, and what a FAILED session answers (60_exceptions.md R85, R86). -/

namespace Sys2Proof.Machine

open Sys2Proof

variable {i : Instr} {s : State}

/-! ### The chain of the checks (R85) -/

theorem isConstruct_iff : isConstruct i = true ↔ (∃ pad, i = .constructR pad) ∨ i = .constructW := by
  cases i <;> simp [isConstruct]

theorem isClose_eq_false_iff : isClose i = false ↔ i ≠ .close := by
  cases i <;> simp [isClose]

/-- No lifecycle check fails exactly where the command is one its lifecycle state admits. -/
theorem lifecycleError_eq_none_iff {l : LC} :
    lifecycleError i l = none ↔
      ¬(l = .failed ∧ isClose i = false) ∧ ¬(l = .idle ∧ ¬isConstruct i = true) ∧
        ¬(l = .opened ∧ isConstruct i = true) := by
  cases l <;> simp [lifecycleError]

/-- Past the lifecycle checks the mode check comes before the operand check. -/
theorem check_of_lifecycle (h : lifecycleError i s.lc = none) :
    check i s = (modeError i s.mode).or (operandError i) := by
  simp [check, h]

theorem modeError_eq {m : Mode} (h : needsMode i = some m) (m' : Mode) :
    modeError i m' = if m = m' then none else some .errMode := by
  simp [modeError, h]

theorem symLegal_iff {sym : Byte} : symLegal sym = true ↔ ¬(sym ≠ 0x30 ∧ sym ≠ 0x31) := by
  simp [symLegal, or_iff_not_imp_left]

theorem nbitsLegal_iff {n : Nat} : nbitsLegal n = true ↔ ¬64 < n := by
  rw [nbitsLegal, decide_eq_true_iff, Config.nMax, not_lt]

theorem check_writeBit_of_lifecycle {sym : Byte} (h : lifecycleError (.writeBit sym) s.lc = none) :
    check (.writeBit sym) s =
      if s.mode = .read then some .errMode else if sym ≠ 0x30 ∧ sym ≠ 0x31 then some .errSymbol else none := by
  rw [check_of_lifecycle h, modeError_eq rfl]
  cases s.mode with
  | read => rfl
  | write =>
    simp only [operandError, symLegal_iff, ite_not]
    rfl

/-- The mode check of a Read-mode command, the operand check after it. -/
theorem check_read_of_lifecycle (hn : needsMode i = some .read) (h : lifecycleError i s.lc = none) :
    check i s = if s.mode = .write then some .errMode else operandError i := by
  rw [check_of_lifecycle h, modeError_eq hn]
  cases s.mode <;> rfl

/-! ### A FAILED session (R86) -/

/-- CLOSE of a FAILED session releases it with the channels as they are. -/
theorem exec_close_failed (hl : s.lc = .failed) : exec .close s = .next ((idleRegs s).load .errFailed 0) := by
  rw [exec_close (by simp [hl])]
  obtain ⟨_, e⟩ | ⟨hf, _⟩ | ⟨hf, _⟩ := closeBody_cases s
  · exact e
  all_goals exact absurd hl hf

/-- Every command of a FAILED session has the one response, whatever the registers ACC, BOFF and LAST hold. -/
theorem exec_failed (hl : s.lc = .failed) (i : Instr) :
    ∃ t, exec i s = .next t ∧ t.rsp = some ⟨.errFailed, 0⟩ := by
  by_cases hi : i = .close
  · subst hi
    exact ⟨_, exec_close_failed hl, rfl⟩
  · exact ⟨_, exec_refused (check_failed hl (isClose_eq_false_iff.2 hi)), rfl⟩

/-! ### No event (R99) -/

theorem hostMove_nil (h : s.host = []) : hostMove s = .next s := by
  simp [hostMove, h]

end Sys2Proof.Machine
end

section

open Sys2Proof Sys2Proof.Machine

/-- Settles O21: with no word to transfer the step is the host's, and the host has no event. -/
theorem waitingBlockHoldsItsState : Obligations.WaitingBlockHoldsItsState := by
  unfold Obligations.WaitingBlockHoldsItsState
  intro s hh hw
  rw [step_eq_hostMove hw, hostMove_nil hh]

/-- Settles O23: an illegal word is answered before any check, and each link of the chain is one check; a command past
the lifecycle links meets its mode check and then its operand check. -/
theorem checksInTheirOrder : Obligations.ChecksInTheirOrder := by
  unfold Obligations.ChecksInTheirOrder
  refine ⟨fun s w hr hw hd => ⟨_, (step_eq_runWord hr hw).trans (runWord_none hd), rfl⟩,
    fun i s st hc => ⟨_, exec_refused hc, rfl⟩, fun i s => ?_⟩
  simp only [← isConstruct_iff, ← isClose_eq_false_iff]
  by_cases hf : s.lc = .failed ∧ isClose i = false
  · rw [if_pos hf, check_failed hf.1 hf.2]
  by_cases hi : s.lc = .idle ∧ ¬isConstruct i = true
  · rw [if_neg hf, if_pos hi, check_idle hi.1 (eq_false_of_ne_true hi.2)]
  by_cases ho : s.lc = .opened ∧ isConstruct i = true
  · rw [if_neg hf, if_neg hi, if_pos ho, check_construct_opened ho.1 ho.2]
  rw [if_neg hf, if_neg hi, if_neg ho]
  have h : lifecycleError i s.lc = none := lifecycleError_eq_none_iff.2 ⟨hf, hi, ho⟩
  cases i with
  | constructR pad => exact check_of_lifecycle h
  | constructW => exact check_of_lifecycle h
  | writeBit sym => exact check_writeBit_of_lifecycle h
  | readBit => exact check_read_of_lifecycle rfl h
  | readByte => exact check_read_of_lifecycle rfl h
  | readNbits n => simpa only [operandError, nbitsLegal_iff, ite_not] using check_read_of_lifecycle rfl h
  | close => exact check_of_lifecycle h

/-- Settles O25: the lifecycle check refuses all but CLOSE, CLOSE releases the session, and both responses are the same
in every FAILED state. -/
theorem failedSessionOnlyCloses : Obligations.FailedSessionOnlyCloses := by
  unfold Obligations.FailedSessionOnlyCloses
  refine ⟨fun i s hl hi => exec_refused (check_failed hl (isClose_eq_false_iff.2 hi)),
    fun s hl => ⟨_, exec_close_failed hl, rfl, rfl, rfl, rfl⟩, fun i s t acc boff last hl h => ?_⟩
  obtain ⟨t', e, ht⟩ := exec_failed hl i
  obtain rfl : t' = t := Host.Outcome.next.inj (e.symm.trans h)
  obtain ⟨u, eu, hu⟩ := exec_failed (s := { s with acc := acc, boff := boff, last := last }) hl i
  exact ⟨u, eu, hu.trans ht.symm⟩

end

section
/-! SUPPORT. A reset in the middle of a command: the command ends in a reset edge, and the READ_NBITS loop runs on
through whole bytes up to the pop that a reset cuts short (42_read.md R74, R78, 70_reset_and_hazards.md R101). -/

namespace Sys2Proof.Machine

open Sys2Proof

variable {i : Instr} {s t : State} {b : Byte} {whole rest : List Byte} {e : RstEdge}

/-! ### The end of an abandoned command (R101) -/

/-- A command that leaves `rst` asserted was cut short: a reset edge follows what it had done. -/
theorem exec_abandoned (hx : s.rst = false) (h : exec i s = .next t) (ht : t.rst = true) :
    ∃ u, Frame i s u ∧ t = resetEdge u := by
  cases exec_ends h with
  | answered he _ => simp [he.frame.rst, hx] at ht
  | opened _ _ _ => simp [hx] at ht
  | ioFailed _ _ hf => simp [hf.rst, hx] at ht
  | released _ _ hf _ => simp [hf.rst, hx] at ht
  | abandoned _ hf => exact ⟨_, hf, rfl⟩

theorem Frame.chOut_prefix (hf : Frame i s t) : s.chOut <+: t.chOut := by
  obtain h | ⟨b, _, h⟩ := hf.chOut
  · rw [h]
  · exact ⟨[b], h.symm⟩

/-- A command takes no access back (R47). -/
theorem exec_accesses_prefix (h : exec i s = .next t) : s.accesses <+: t.accesses := by
  obtain ⟨_, ha, _⟩ := exec_records h
  exact ⟨_, ha.symm⟩

/-! ### The access in flight (R101) -/

theorem chPop_abandoned (ha : s.answer = .rst e) :
    ∃ t, chPop s = .abandoned t ∧ t.chIn = if e.moved then s.chIn.tail else s.chIn :=
  ⟨_, chPop_rst ha, by simp⟩

theorem chPush_abandoned (ha : s.answer = .rst e) (b : Byte) :
    ∃ t, chPush b s = .abandoned t ∧ t.chOut = if e.moved then s.chOut ++ [b] else s.chOut :=
  ⟨_, chPush_rst ha, by simp⟩

/-- A read port that answers at the edge of a reset is valid and shows whether it fails. -/
theorem rdPort_answered {failing moved : Bool} (ha : s.answer = .rst (.answered failing moved)) :
    (rdPort s).valid = true ∧ (rdPort s).err = failing := by
  rw [rdPort_rst_answered ha]
  cases failing <;> exact ⟨rfl, rfl⟩

/-! ### The one-bit step where it gives a bit (R74) -/

theorem rb_buffered (hl : s.last = false) (hb : s.boff.val ≠ 0) : rb s = takeBit s := by
  simp only [rb, atEnd, hl, Bool.false_and, Bool.false_eq_true, if_false, if_neg hb]

theorem rb_refilled {bs : List Byte} (hl : s.last = false) (hb : s.boff = 0) (hc : s.chIn = b :: bs)
    (ha : s.answer = .ok) (hq : s.chan.tail.headD .ok = .ok) : rb s = takeBit (refilled b bs s) := by
  rw [rb_eq_refill hl hb, refill_ok_cons ha hc, probeLoaded_popped hq]

/-- A bit that the one-bit step takes: the loop goes on from the state without it (R78). -/
theorem gather_takeBit {u : State} (h : rb s = takeBit u) (n : Nat) (v : Data) :
    gather (n + 1) v s = gather n (appendBit v (extract u).1) (extract u).2 := by
  rw [gather, h, takeBit, bind_done]

/-! ### The loop up to a reset (R78, R101) -/

/-- The read channel still serves the bytes `whole`, each with its probe, and a reset cuts short the pop after them;
`rest` is what the channel then holds. -/
structure CutAfter (whole rest : List Byte) (e : RstEdge) (s : State) : Prop where
  last : s.last = false
  chIn : s.chIn = whole ++ rest
  rest_ne : rest ≠ []
  chan : ∃ more, s.chan = List.replicate (2 * whole.length) .ok ++ .rst e :: more

theorem CutAfter.extract (h : CutAfter whole rest e s) : CutAfter whole rest e (extract s).2 :=
  ⟨h.last, h.chIn, h.rest_ne, h.chan⟩

/-- The answers to the pop and the probe of the next byte come first. -/
theorem CutAfter.chan_cons (h : CutAfter (b :: whole) rest e s) :
    ∃ more, s.chan = .ok :: .ok :: (List.replicate (2 * whole.length) .ok ++ .rst e :: more) := by
  obtain ⟨more, hc⟩ := h.chan
  exact ⟨more, by simp [hc, Nat.mul_succ, List.replicate_succ]⟩

/-- A refill takes one byte and two answers; a probe before the last byte leaves LAST = 0. -/
theorem CutAfter.refilled (h : CutAfter (b :: whole) rest e s) :
    CutAfter whole rest e (refilled b (whole ++ rest) s) := by
  obtain ⟨more, hc⟩ := h.chan_cons
  exact ⟨by simp [h.rest_ne], rfl, h.rest_ne, more, by simp [Machine.refilled, popped, hc]⟩

theorem CutAfter.rb_cons (h : CutAfter (b :: whole) rest e s) (hb : s.boff = 0) :
    rb s = takeBit (Machine.refilled b (whole ++ rest) s) := by
  obtain ⟨more, hc⟩ := h.chan_cons
  exact rb_refilled h.last hb h.chIn (by rw [State.answer, hc]; rfl) (by rw [hc]; rfl)

theorem CutAfter.rb_nil (h : CutAfter [] rest e s) (hb : s.boff = 0) :
    rb s = .abandoned ((s.access .pop).popMoved e.moved) := by
  obtain ⟨more, hc⟩ := h.chan
  rw [rb_eq_refill h.last hb, refill, chPop_rst (e := e) (by simp [State.answer, hc]), bind_abandoned]

/-- Asked for more bits than ACC and the whole bytes hold, the loop ends at the pop that the reset cuts short. -/
theorem CutAfter.gather {n : Nat} (h : CutAfter whole rest e s) (hn : s.boff.val + 8 * whole.length < n) (v : Data) :
    ∃ u, gather n v s = .abandoned u ∧ u.chIn = (if e.moved then rest.tail else rest) ∧
      u.accesses = s.accesses ++ (List.replicate whole.length [Access.pop, Access.probe]).flatten ++ [.pop] := by
  induction n generalizing v s whole with
  | zero => exact absurd hn (Nat.not_lt_zero _)
  | succ n ih =>
    by_cases hb : s.boff = 0
    · cases whole with
      | nil =>
        exact ⟨_, by rw [Machine.gather, h.rb_nil hb, bind_abandoned], by simp [h.chIn], by simp⟩
      | cons b whole =>
        obtain ⟨u, eu, hin, ha⟩ := ih h.refilled.extract (by simp [hb] at hn ⊢; omega) _
        exact ⟨u, (gather_takeBit (h.rb_cons hb) n v).trans eu, hin,
          by simp [ha, Machine.refilled, popped, List.replicate_succ]⟩
    · have hb' : s.boff.val ≠ 0 := fun h0 => hb (Fin.ext h0)
      obtain ⟨u, eu, hin, ha⟩ := ih h.extract (by simp; omega) _
      exact ⟨u, (gather_takeBit (rb_buffered h.last hb') n v).trans eu, hin, ha⟩

/-- READ_NBITS cut short at a pop after whole bytes: those stay consumed, and the write channel is as it was (R101). -/
theorem CutAfter.exec_readNbits {n : Nat} (h : CutAfter whole rest e s) (hr : Reading s) (hn : n ≤ 64)
    (hw : s.boff.val + 8 * whole.length < n) :
    ∃ u, exec (.readNbits n) s = .next (resetEdge u) ∧ u.chIn = (if e.moved then rest.tail else rest) ∧
      u.chOut = s.chOut ∧
      u.accesses = s.accesses ++ (List.replicate whole.length [Access.pop, Access.probe]).flatten ++ [.pop] := by
  obtain ⟨u, eu, hin, ha⟩ := h.gather hw 0
  have hm := gather_move n 0 s
  rw [eu] at hm
  exact ⟨u, by rw [Machine.exec_readNbits hr hn, readNbitsBody, eu, finish_abandoned], hin, hm.chOut, ha⟩

end Sys2Proof.Machine
end

section

open Sys2Proof Sys2Proof.Machine

/-- Settles O59: an abandoned command is a reset edge after what it had done, so each clause is what its accesses up to
the cut did; a reset of the host's discards the response. -/
theorem resetDuringACommandAbandonsIt : Obligations.ResetDuringACommandAbandonsIt := by
  unfold Obligations.ResetDuringACommandAbandonsIt
  refine ⟨fun i s t hx h ht => ?_, fun i s e hi hr hl => ⟨fun ha => ?_, fun b bs hc ha hq => ?_⟩,
    fun s n e whole rest more hr hl hb hc hrest hw hn hch => ?_, fun s b e byte hw h7 ha hbyte => ?_,
    fun s e hw h1 ha => ?_, fun s wait no yes b failing rest hwait hno hyes => ?_, fun s r rest hr hh => ?_⟩
  · have hacc := exec_accesses_prefix h
    obtain ⟨u, hf, rfl⟩ := exec_abandoned hx h ht
    exact ⟨rfl, rfl, hf.chOut_prefix, hf.chIn_suffix, hacc, hf.taken⟩
  · obtain ⟨k, ek⟩ := PopsFirst.exec_pop hi hr hl
    rw [ek, chPop_rst ha]
    exact ⟨_, rfl, rfl, rfl, rfl, by simp, by simp, by simp⟩
  · obtain ⟨u, k, rfl | rfl, ek⟩ := PopsFirst.exec_probe hi hr hl hc ha
    · rw [ek, chProbe_rst ((answer_popped b bs s).trans hq)]
      exact ⟨_, rfl, rfl, rfl, rfl, rfl, rfl, by simp [popped]⟩
    · rw [ek, chProbe_rst ((answer_held b bs s).trans hq)]
      exact ⟨_, rfl, rfl, rfl, rfl, rfl, rfl, by simp [held]⟩
  · have hcut : CutAfter whole rest e s := ⟨hl, hc, hrest, more, hch⟩
    obtain ⟨u, eu, hin, hout, hacc⟩ := hcut.exec_readNbits hr hn (by simpa [hb] using hw)
    exact ⟨_, eu, rfl, rfl, rfl, hin, hout, hacc⟩
  · rw [exec_writeBit hw (symLegal_bitSym b), symBit_bitSym, writeBitBody_flush b h7, hbyte, ← placeBit_eq_ofNat,
      chPush_rst (by exact ha)]
    exact ⟨_, rfl, rfl, rfl, rfl, by simp, by simp, by simp⟩
  · rw [exec_close (by simp [hw.1]), closeBody_flush hw (by omega), chPush_rst ha]
    exact ⟨_, rfl, rfl, rfl, rfl, by simp, by simp, by simp⟩
  · have await : wait.answer = .rst .waiting := by rw [hwait]; rfl
    have ano : no.answer = .rst (.answered failing false) := by rw [hno]; rfl
    have ayes : yes.answer = .rst (.answered failing true) := by rw [hyes]; rfl
    have hrd : rdPort yes = rdPort no := by rw [rdPort_rst_answered ayes, rdPort_rst_answered ano, hyes, hno]
    have hwr : wrPort no = ⟨true, failing⟩ := wrPort_rst_answered ano
    obtain ⟨hvalid, herr⟩ := rdPort_answered ano
    refine ⟨⟨by rw [rdPort_rst_waiting await]; rfl, by rw [wrPort_rst_waiting await], ?_, ?_⟩,
      ⟨hvalid, herr, hrd, by rw [hwr], by rw [hwr], by rw [hwr, wrPort_rst_answered ayes]⟩, ?_, ?_, ?_, ?_⟩
    · simpa [hwait] using chPop_abandoned await
    · simpa [hwait] using chPush_abandoned await b
    · simpa [hno] using chPop_abandoned ano
    · simpa [hyes] using chPop_abandoned ayes
    · simpa [hno] using chPush_abandoned ano b
    · simpa [hyes] using chPush_abandoned ayes b
  · rw [step_eq_hostMove fun h => absurd h (not_ready_of_rsp hr), hostMove_cons hh]
    exact ⟨_, rfl, rfl, rfl, rfl, rfl⟩

end
